-- ==== Sys2Proof/Word.lean ====
section
/-! DEFINITION. The word types of the core. -/

namespace Sys2Proof

/-- The content of a register, an operand, a result, an address or an instruction word: 32 bits (00_scope.md R4). -/
abbrev Word := BitVec 32

/-- The smallest addressable unit of memory (20_memory.md R30). -/
abbrev Byte := BitVec 8

end Sys2Proof
end

