-- ==== Sys2Proof/Config.lean ====
section
/-! DEFINITION. The implementation parameters of 00_scope.md R4 that one step of the core depends on. -/

namespace Sys2Proof

/-- BIGEND: the byte order of instruction fetch (20_memory.md R31, D20). -/
inductive ByteOrder where
  | little
  | big
deriving DecidableEq, Repr

/-- RS_AMOUNT_BYTE: which byte of Rs gives a register-specified shift amount (41_operand2_shifter.md R91, D6). -/
inductive RsAmountByte where
  /-- Rs[7:0]. -/
  | low
  /-- Rs[31:24], the literal reading of the source (90_conflicts.md C12). -/
  | high
deriving DecidableEq, Repr

/-- The open parameters of 00_scope.md R4 that a step reads and no step changes. The fourth open parameter,
HALT_ADDR, belongs to a run and not to the chip (D26): see Safety.lean. -/
structure Params where
  rsAmountByte : RsAmountByte
  byteOrder : ByteOrder
deriving DecidableEq, Repr

/-- The spec's own defaults. DESIGN CHOICE (unsafe: the source says the opposite of `low` and nothing on the byte
order): logs 3 and 4. -/
abbrev Config.defaultParams : Params := { rsAmountByte := .low, byteOrder := .little }

end Sys2Proof
end

