-- ==== Sys2Proof/Syntax.lean ====
section
/-! DEFINITION. The instructions as syntax: one constructor of `Instr` for each of the 48 rows of
spec/opcode_table.json (16 mnemonics in three operand-2 forms). -/

namespace Sys2Proof

/-- The fifteen conditions of 30_encoding.md R47. The reserved code 1111 is no condition: the decoder refuses it (R51). -/
inductive Cond where
  | eq | ne | cs | cc | mi | pl | vs | vc | hi | ls | ge | lt | gt | le | al
deriving DecidableEq, Repr

/-- The general registers other than R15 (10_state.md R10, R12). -/
inductive Gpr where
  | r0 | r1 | r2 | r3 | r4 | r5 | r6 | r7 | r8 | r9 | r10 | r11 | r12 | r13 | r14
deriving DecidableEq, Repr

/-- What a 4-bit register field names: one of R0 to R14, or R15, the program counter (10_state.md R11, R12). -/
inductive Reg where
  | gpr (g : Gpr)
  | pc
deriving DecidableEq, Repr

/-- The four shift types of 30_encoding.md R45. RRX is written as ROR with amount 0 (R90). -/
inductive ShiftType where
  | lsl | lsr | asr | ror
deriving DecidableEq, Repr

/-- Operand 2 as an 8-bit constant and a 4-bit rotate count (30_encoding.md R42). -/
structure ImmOperand where
  rotate : BitVec 4
  imm8 : BitVec 8
deriving DecidableEq, Repr

/-- Operand 2 as a register shifted by an amount in the instruction (30_encoding.md R43). -/
structure ShiftImmOperand where
  amount : BitVec 5
  ty : ShiftType
  rm : Reg
deriving DecidableEq, Repr

/-- Operand 2 as a register shifted by an amount held in a register (30_encoding.md R44). `rs` may be written as
R15; such an instruction is ill-formed and executing it faults (10_state.md R12). -/
structure ShiftRegOperand where
  rs : Reg
  ty : ShiftType
  rm : Reg
deriving DecidableEq, Repr

/-- The three forms of operand 2 (30_encoding.md R53). -/
inductive Operand2 where
  | imm (o : ImmOperand)
  | regImm (o : ShiftImmOperand)
  | regReg (o : ShiftRegOperand)
deriving DecidableEq, Repr

/-- One constructor per row of spec/opcode_table.json. `s` is the S bit; TST, TEQ, CMP and CMN have it always set
(30_encoding.md R48, R50) and so carry none. MOV and MVN carry the Rn field they ignore, and the four tests the Rd
field, which selects the P form when it names R15 (R52). -/
inductive Instr where
  -- Imm
  | andImm (c : Cond) (s : Bool) (rn rd : Reg) (o : ImmOperand)
  | eorImm (c : Cond) (s : Bool) (rn rd : Reg) (o : ImmOperand)
  | subImm (c : Cond) (s : Bool) (rn rd : Reg) (o : ImmOperand)
  | rsbImm (c : Cond) (s : Bool) (rn rd : Reg) (o : ImmOperand)
  | addImm (c : Cond) (s : Bool) (rn rd : Reg) (o : ImmOperand)
  | adcImm (c : Cond) (s : Bool) (rn rd : Reg) (o : ImmOperand)
  | sbcImm (c : Cond) (s : Bool) (rn rd : Reg) (o : ImmOperand)
  | rscImm (c : Cond) (s : Bool) (rn rd : Reg) (o : ImmOperand)
  | tstImm (c : Cond) (rn rd : Reg) (o : ImmOperand)
  | teqImm (c : Cond) (rn rd : Reg) (o : ImmOperand)
  | cmpImm (c : Cond) (rn rd : Reg) (o : ImmOperand)
  | cmnImm (c : Cond) (rn rd : Reg) (o : ImmOperand)
  | orrImm (c : Cond) (s : Bool) (rn rd : Reg) (o : ImmOperand)
  | movImm (c : Cond) (s : Bool) (rn rd : Reg) (o : ImmOperand)
  | bicImm (c : Cond) (s : Bool) (rn rd : Reg) (o : ImmOperand)
  | mvnImm (c : Cond) (s : Bool) (rn rd : Reg) (o : ImmOperand)
  -- RegImm
  | andRegImm (c : Cond) (s : Bool) (rn rd : Reg) (o : ShiftImmOperand)
  | eorRegImm (c : Cond) (s : Bool) (rn rd : Reg) (o : ShiftImmOperand)
  | subRegImm (c : Cond) (s : Bool) (rn rd : Reg) (o : ShiftImmOperand)
  | rsbRegImm (c : Cond) (s : Bool) (rn rd : Reg) (o : ShiftImmOperand)
  | addRegImm (c : Cond) (s : Bool) (rn rd : Reg) (o : ShiftImmOperand)
  | adcRegImm (c : Cond) (s : Bool) (rn rd : Reg) (o : ShiftImmOperand)
  | sbcRegImm (c : Cond) (s : Bool) (rn rd : Reg) (o : ShiftImmOperand)
  | rscRegImm (c : Cond) (s : Bool) (rn rd : Reg) (o : ShiftImmOperand)
  | tstRegImm (c : Cond) (rn rd : Reg) (o : ShiftImmOperand)
  | teqRegImm (c : Cond) (rn rd : Reg) (o : ShiftImmOperand)
  | cmpRegImm (c : Cond) (rn rd : Reg) (o : ShiftImmOperand)
  | cmnRegImm (c : Cond) (rn rd : Reg) (o : ShiftImmOperand)
  | orrRegImm (c : Cond) (s : Bool) (rn rd : Reg) (o : ShiftImmOperand)
  | movRegImm (c : Cond) (s : Bool) (rn rd : Reg) (o : ShiftImmOperand)
  | bicRegImm (c : Cond) (s : Bool) (rn rd : Reg) (o : ShiftImmOperand)
  | mvnRegImm (c : Cond) (s : Bool) (rn rd : Reg) (o : ShiftImmOperand)
  -- RegReg
  | andRegReg (c : Cond) (s : Bool) (rn rd : Reg) (o : ShiftRegOperand)
  | eorRegReg (c : Cond) (s : Bool) (rn rd : Reg) (o : ShiftRegOperand)
  | subRegReg (c : Cond) (s : Bool) (rn rd : Reg) (o : ShiftRegOperand)
  | rsbRegReg (c : Cond) (s : Bool) (rn rd : Reg) (o : ShiftRegOperand)
  | addRegReg (c : Cond) (s : Bool) (rn rd : Reg) (o : ShiftRegOperand)
  | adcRegReg (c : Cond) (s : Bool) (rn rd : Reg) (o : ShiftRegOperand)
  | sbcRegReg (c : Cond) (s : Bool) (rn rd : Reg) (o : ShiftRegOperand)
  | rscRegReg (c : Cond) (s : Bool) (rn rd : Reg) (o : ShiftRegOperand)
  | tstRegReg (c : Cond) (rn rd : Reg) (o : ShiftRegOperand)
  | teqRegReg (c : Cond) (rn rd : Reg) (o : ShiftRegOperand)
  | cmpRegReg (c : Cond) (rn rd : Reg) (o : ShiftRegOperand)
  | cmnRegReg (c : Cond) (rn rd : Reg) (o : ShiftRegOperand)
  | orrRegReg (c : Cond) (s : Bool) (rn rd : Reg) (o : ShiftRegOperand)
  | movRegReg (c : Cond) (s : Bool) (rn rd : Reg) (o : ShiftRegOperand)
  | bicRegReg (c : Cond) (s : Bool) (rn rd : Reg) (o : ShiftRegOperand)
  | mvnRegReg (c : Cond) (s : Bool) (rn rd : Reg) (o : ShiftRegOperand)
deriving DecidableEq, Repr

end Sys2Proof
end

