-- ==== Sys2Proof/WellFormed.lean ====
section
/-! DEFINITION. The check an instruction term must pass beyond its types. -/

namespace Sys2Proof

/-- Rs must not be R15 (10_state.md R12). -/
def ShiftRegOperand.wellFormed (o : ShiftRegOperand) : Bool := o.rs != .pc

/-- An instruction is well formed when its register-specified shift amount, if it has one, is not in R15
(10_state.md R12). Everything else an instruction must satisfy, its type already says. -/
def Instr.wellFormed : Instr → Bool
  | .andImm .. | .eorImm .. | .subImm .. | .rsbImm ..
  | .addImm .. | .adcImm .. | .sbcImm .. | .rscImm ..
  | .tstImm .. | .teqImm .. | .cmpImm .. | .cmnImm ..
  | .orrImm .. | .movImm .. | .bicImm .. | .mvnImm .. => true
  | .andRegImm .. | .eorRegImm .. | .subRegImm .. | .rsbRegImm ..
  | .addRegImm .. | .adcRegImm .. | .sbcRegImm .. | .rscRegImm ..
  | .tstRegImm .. | .teqRegImm .. | .cmpRegImm .. | .cmnRegImm ..
  | .orrRegImm .. | .movRegImm .. | .bicRegImm .. | .mvnRegImm .. => true
  | .andRegReg _ _ _ _ o | .eorRegReg _ _ _ _ o | .subRegReg _ _ _ _ o | .rsbRegReg _ _ _ _ o
  | .addRegReg _ _ _ _ o | .adcRegReg _ _ _ _ o | .sbcRegReg _ _ _ _ o | .rscRegReg _ _ _ _ o
  | .tstRegReg _ _ _ o | .teqRegReg _ _ _ o | .cmpRegReg _ _ _ o | .cmnRegReg _ _ _ o
  | .orrRegReg _ _ _ _ o | .movRegReg _ _ _ _ o | .bicRegReg _ _ _ _ o | .mvnRegReg _ _ _ _ o => o.wellFormed

end Sys2Proof
end

