-- ==== Sys2Proof/Decode.lean ====
section
/-! DEFINITION. The decoder, total on words and on byte lists, and the encoder after it, both written from
30_encoding.md R41 to R53. The field positions are the spec's general knowledge (log 12). -/

namespace Sys2Proof

/-- Why a word is no instruction of this spec (30_encoding.md R53, steps 1 to 4). -/
inductive DecodeReject where
  /-- cond = 1111 (R51). -/
  | cond1111
  /-- instr[27:26] is not 00 (00_scope.md R3). -/
  | notDataProcessing
  /-- I = 0, bit 4 = 1 and bit 7 = 1: a multiply or an unknown instruction (R49). -/
  | multiplyOrUnknown
  /-- A TST, TEQ, CMP or CMN opcode with S = 0: another instruction of the core (R50). -/
  | testOpcodeWithSZero
  /-- Fewer than the four bytes of a word (R40). Raised on byte lists only: a fetch always has four bytes. -/
  | truncated
deriving DecidableEq, Repr

/-- The sixteen values of the opcode field (30_encoding.md R46). -/
inductive Opcode where
  | and | eor | sub | rsb | add | adc | sbc | rsc | tst | teq | cmp | cmn | orr | mov | bic | mvn
deriving DecidableEq, Repr

/-- The codes of 30_encoding.md R46. -/
def Opcode.ofBits (b : BitVec 4) : Opcode :=
  match b with
  | 0b0000#4 => .and | 0b0001#4 => .eor | 0b0010#4 => .sub | 0b0011#4 => .rsb
  | 0b0100#4 => .add | 0b0101#4 => .adc | 0b0110#4 => .sbc | 0b0111#4 => .rsc
  | 0b1000#4 => .tst | 0b1001#4 => .teq | 0b1010#4 => .cmp | 0b1011#4 => .cmn
  | 0b1100#4 => .orr | 0b1101#4 => .mov | 0b1110#4 => .bic | _ => .mvn

/-- The codes of 30_encoding.md R46, as the encoder writes them. -/
def Opcode.bits : Opcode → BitVec 4
  | .and => 0b0000#4 | .eor => 0b0001#4 | .sub => 0b0010#4 | .rsb => 0b0011#4
  | .add => 0b0100#4 | .adc => 0b0101#4 | .sbc => 0b0110#4 | .rsc => 0b0111#4
  | .tst => 0b1000#4 | .teq => 0b1001#4 | .cmp => 0b1010#4 | .cmn => 0b1011#4
  | .orr => 0b1100#4 | .mov => 0b1101#4 | .bic => 0b1110#4 | .mvn => 0b1111#4

/-- TST, TEQ, CMP and CMN: the operations that write no result (40_data_processing_common.md R64). -/
def Opcode.isTest : Opcode → Bool
  | .tst | .teq | .cmp | .cmn => true
  | .and | .eor | .sub | .rsb | .add | .adc | .sbc | .rsc | .orr | .mov | .bic | .mvn => false

/-- The condition codes of 30_encoding.md R47; 1111 is none (R51). -/
def Cond.ofBits (b : BitVec 4) : Option Cond :=
  match b with
  | 0b0000#4 => some .eq | 0b0001#4 => some .ne | 0b0010#4 => some .cs | 0b0011#4 => some .cc
  | 0b0100#4 => some .mi | 0b0101#4 => some .pl | 0b0110#4 => some .vs | 0b0111#4 => some .vc
  | 0b1000#4 => some .hi | 0b1001#4 => some .ls | 0b1010#4 => some .ge | 0b1011#4 => some .lt
  | 0b1100#4 => some .gt | 0b1101#4 => some .le | 0b1110#4 => some .al | _ => none

/-- The condition codes of 30_encoding.md R47, as the encoder writes them. -/
def Cond.bits : Cond → BitVec 4
  | .eq => 0b0000#4 | .ne => 0b0001#4 | .cs => 0b0010#4 | .cc => 0b0011#4
  | .mi => 0b0100#4 | .pl => 0b0101#4 | .vs => 0b0110#4 | .vc => 0b0111#4
  | .hi => 0b1000#4 | .ls => 0b1001#4 | .ge => 0b1010#4 | .lt => 0b1011#4
  | .gt => 0b1100#4 | .le => 0b1101#4 | .al => 0b1110#4

/-- A register field: the number of the register it names (10_state.md R10). -/
def Reg.ofBits (b : BitVec 4) : Reg :=
  match b with
  | 0#4 => .gpr .r0 | 1#4 => .gpr .r1 | 2#4 => .gpr .r2 | 3#4 => .gpr .r3
  | 4#4 => .gpr .r4 | 5#4 => .gpr .r5 | 6#4 => .gpr .r6 | 7#4 => .gpr .r7
  | 8#4 => .gpr .r8 | 9#4 => .gpr .r9 | 10#4 => .gpr .r10 | 11#4 => .gpr .r11
  | 12#4 => .gpr .r12 | 13#4 => .gpr .r13 | 14#4 => .gpr .r14 | _ => .pc

/-- The number of a register, as the encoder writes it. -/
def Reg.bits : Reg → BitVec 4
  | .gpr .r0 => 0#4 | .gpr .r1 => 1#4 | .gpr .r2 => 2#4 | .gpr .r3 => 3#4
  | .gpr .r4 => 4#4 | .gpr .r5 => 5#4 | .gpr .r6 => 6#4 | .gpr .r7 => 7#4
  | .gpr .r8 => 8#4 | .gpr .r9 => 9#4 | .gpr .r10 => 10#4 | .gpr .r11 => 11#4
  | .gpr .r12 => 12#4 | .gpr .r13 => 13#4 | .gpr .r14 => 14#4 | .pc => 15#4

/-- The shift-type codes of 30_encoding.md R45. -/
def ShiftType.ofBits (b : BitVec 2) : ShiftType :=
  match b with
  | 0b00#2 => .lsl | 0b01#2 => .lsr | 0b10#2 => .asr | _ => .ror

/-- The shift-type codes of 30_encoding.md R45, as the encoder writes them. -/
def ShiftType.bits : ShiftType → BitVec 2
  | .lsl => 0b00#2 | .lsr => 0b01#2 | .asr => 0b10#2 | .ror => 0b11#2

/-- The fields of a data-processing word (30_encoding.md R41), an instruction seen uniformly. -/
structure Fields where
  op : Opcode
  cond : Cond
  s : Bool
  rn : Reg
  rd : Reg
  op2 : Operand2
deriving DecidableEq, Repr

/-- The row of the opcode table that an opcode selects with an immediate operand 2; a test row has no S field. -/
def Opcode.immRow (op : Opcode) (c : Cond) (s : Bool) (rn rd : Reg) (o : ImmOperand) : Instr :=
  match op with
  | .and => .andImm c s rn rd o
  | .eor => .eorImm c s rn rd o
  | .sub => .subImm c s rn rd o
  | .rsb => .rsbImm c s rn rd o
  | .add => .addImm c s rn rd o
  | .adc => .adcImm c s rn rd o
  | .sbc => .sbcImm c s rn rd o
  | .rsc => .rscImm c s rn rd o
  | .tst => .tstImm c rn rd o
  | .teq => .teqImm c rn rd o
  | .cmp => .cmpImm c rn rd o
  | .cmn => .cmnImm c rn rd o
  | .orr => .orrImm c s rn rd o
  | .mov => .movImm c s rn rd o
  | .bic => .bicImm c s rn rd o
  | .mvn => .mvnImm c s rn rd o

/-- The row of the opcode table that an opcode selects with an amount in the instruction; a test row has no S field. -/
def Opcode.regImmRow (op : Opcode) (c : Cond) (s : Bool) (rn rd : Reg) (o : ShiftImmOperand) : Instr :=
  match op with
  | .and => .andRegImm c s rn rd o
  | .eor => .eorRegImm c s rn rd o
  | .sub => .subRegImm c s rn rd o
  | .rsb => .rsbRegImm c s rn rd o
  | .add => .addRegImm c s rn rd o
  | .adc => .adcRegImm c s rn rd o
  | .sbc => .sbcRegImm c s rn rd o
  | .rsc => .rscRegImm c s rn rd o
  | .tst => .tstRegImm c rn rd o
  | .teq => .teqRegImm c rn rd o
  | .cmp => .cmpRegImm c rn rd o
  | .cmn => .cmnRegImm c rn rd o
  | .orr => .orrRegImm c s rn rd o
  | .mov => .movRegImm c s rn rd o
  | .bic => .bicRegImm c s rn rd o
  | .mvn => .mvnRegImm c s rn rd o

/-- The row of the opcode table that an opcode selects with an amount held in Rs; a test row has no S field. -/
def Opcode.regRegRow (op : Opcode) (c : Cond) (s : Bool) (rn rd : Reg) (o : ShiftRegOperand) : Instr :=
  match op with
  | .and => .andRegReg c s rn rd o
  | .eor => .eorRegReg c s rn rd o
  | .sub => .subRegReg c s rn rd o
  | .rsb => .rsbRegReg c s rn rd o
  | .add => .addRegReg c s rn rd o
  | .adc => .adcRegReg c s rn rd o
  | .sbc => .sbcRegReg c s rn rd o
  | .rsc => .rscRegReg c s rn rd o
  | .tst => .tstRegReg c rn rd o
  | .teq => .teqRegReg c rn rd o
  | .cmp => .cmpRegReg c rn rd o
  | .cmn => .cmnRegReg c rn rd o
  | .orr => .orrRegReg c s rn rd o
  | .mov => .movRegReg c s rn rd o
  | .bic => .bicRegReg c s rn rd o
  | .mvn => .mvnRegReg c s rn rd o

/-- The fields of an instruction; a test has S = 1 (30_encoding.md R48). -/
def Instr.fields : Instr → Fields
  | .andImm c s rn rd o => ⟨.and, c, s, rn, rd, .imm o⟩
  | .eorImm c s rn rd o => ⟨.eor, c, s, rn, rd, .imm o⟩
  | .subImm c s rn rd o => ⟨.sub, c, s, rn, rd, .imm o⟩
  | .rsbImm c s rn rd o => ⟨.rsb, c, s, rn, rd, .imm o⟩
  | .addImm c s rn rd o => ⟨.add, c, s, rn, rd, .imm o⟩
  | .adcImm c s rn rd o => ⟨.adc, c, s, rn, rd, .imm o⟩
  | .sbcImm c s rn rd o => ⟨.sbc, c, s, rn, rd, .imm o⟩
  | .rscImm c s rn rd o => ⟨.rsc, c, s, rn, rd, .imm o⟩
  | .tstImm c rn rd o => ⟨.tst, c, true, rn, rd, .imm o⟩
  | .teqImm c rn rd o => ⟨.teq, c, true, rn, rd, .imm o⟩
  | .cmpImm c rn rd o => ⟨.cmp, c, true, rn, rd, .imm o⟩
  | .cmnImm c rn rd o => ⟨.cmn, c, true, rn, rd, .imm o⟩
  | .orrImm c s rn rd o => ⟨.orr, c, s, rn, rd, .imm o⟩
  | .movImm c s rn rd o => ⟨.mov, c, s, rn, rd, .imm o⟩
  | .bicImm c s rn rd o => ⟨.bic, c, s, rn, rd, .imm o⟩
  | .mvnImm c s rn rd o => ⟨.mvn, c, s, rn, rd, .imm o⟩
  | .andRegImm c s rn rd o => ⟨.and, c, s, rn, rd, .regImm o⟩
  | .eorRegImm c s rn rd o => ⟨.eor, c, s, rn, rd, .regImm o⟩
  | .subRegImm c s rn rd o => ⟨.sub, c, s, rn, rd, .regImm o⟩
  | .rsbRegImm c s rn rd o => ⟨.rsb, c, s, rn, rd, .regImm o⟩
  | .addRegImm c s rn rd o => ⟨.add, c, s, rn, rd, .regImm o⟩
  | .adcRegImm c s rn rd o => ⟨.adc, c, s, rn, rd, .regImm o⟩
  | .sbcRegImm c s rn rd o => ⟨.sbc, c, s, rn, rd, .regImm o⟩
  | .rscRegImm c s rn rd o => ⟨.rsc, c, s, rn, rd, .regImm o⟩
  | .tstRegImm c rn rd o => ⟨.tst, c, true, rn, rd, .regImm o⟩
  | .teqRegImm c rn rd o => ⟨.teq, c, true, rn, rd, .regImm o⟩
  | .cmpRegImm c rn rd o => ⟨.cmp, c, true, rn, rd, .regImm o⟩
  | .cmnRegImm c rn rd o => ⟨.cmn, c, true, rn, rd, .regImm o⟩
  | .orrRegImm c s rn rd o => ⟨.orr, c, s, rn, rd, .regImm o⟩
  | .movRegImm c s rn rd o => ⟨.mov, c, s, rn, rd, .regImm o⟩
  | .bicRegImm c s rn rd o => ⟨.bic, c, s, rn, rd, .regImm o⟩
  | .mvnRegImm c s rn rd o => ⟨.mvn, c, s, rn, rd, .regImm o⟩
  | .andRegReg c s rn rd o => ⟨.and, c, s, rn, rd, .regReg o⟩
  | .eorRegReg c s rn rd o => ⟨.eor, c, s, rn, rd, .regReg o⟩
  | .subRegReg c s rn rd o => ⟨.sub, c, s, rn, rd, .regReg o⟩
  | .rsbRegReg c s rn rd o => ⟨.rsb, c, s, rn, rd, .regReg o⟩
  | .addRegReg c s rn rd o => ⟨.add, c, s, rn, rd, .regReg o⟩
  | .adcRegReg c s rn rd o => ⟨.adc, c, s, rn, rd, .regReg o⟩
  | .sbcRegReg c s rn rd o => ⟨.sbc, c, s, rn, rd, .regReg o⟩
  | .rscRegReg c s rn rd o => ⟨.rsc, c, s, rn, rd, .regReg o⟩
  | .tstRegReg c rn rd o => ⟨.tst, c, true, rn, rd, .regReg o⟩
  | .teqRegReg c rn rd o => ⟨.teq, c, true, rn, rd, .regReg o⟩
  | .cmpRegReg c rn rd o => ⟨.cmp, c, true, rn, rd, .regReg o⟩
  | .cmnRegReg c rn rd o => ⟨.cmn, c, true, rn, rd, .regReg o⟩
  | .orrRegReg c s rn rd o => ⟨.orr, c, s, rn, rd, .regReg o⟩
  | .movRegReg c s rn rd o => ⟨.mov, c, s, rn, rd, .regReg o⟩
  | .bicRegReg c s rn rd o => ⟨.bic, c, s, rn, rd, .regReg o⟩
  | .mvnRegReg c s rn rd o => ⟨.mvn, c, s, rn, rd, .regReg o⟩

/-- The instruction whose fields these are (the S field of a test is not kept: R50). -/
def Fields.instr (f : Fields) : Instr :=
  match f.op2 with
  | .imm o => f.op.immRow f.cond f.s f.rn f.rd o
  | .regImm o => f.op.regImmRow f.cond f.s f.rn f.rd o
  | .regReg o => f.op.regRegRow f.cond f.s f.rn f.rd o

/-- Operand 2 of a word whose form is not excluded (30_encoding.md R42, R43, R44 and R53 step 5). -/
def decodeOperand2 (w : Word) : Operand2 :=
  if w.getLsbD 25 then
    .imm { rotate := w.extractLsb' 8 4, imm8 := w.extractLsb' 0 8 }
  else if w.getLsbD 4 then
    .regReg { rs := .ofBits (w.extractLsb' 8 4), ty := .ofBits (w.extractLsb' 5 2), rm := .ofBits (w.extractLsb' 0 4) }
  else
    .regImm { amount := w.extractLsb' 7 5, ty := .ofBits (w.extractLsb' 5 2), rm := .ofBits (w.extractLsb' 0 4) }

/-- 30_encoding.md R53, in its order. A word with Rs = R15 decodes to an ill-formed instruction, whose execution
faults before its condition is looked at (log 10). -/
def decodeWord (w : Word) : Except DecodeReject Instr :=
  match Cond.ofBits (w.extractLsb' 28 4) with
  | none => .error .cond1111
  | some c =>
    if w.extractLsb' 26 2 ≠ 0#2 then .error .notDataProcessing
    else if !w.getLsbD 25 && w.getLsbD 4 && w.getLsbD 7 then .error .multiplyOrUnknown
    else if w.extractLsb' 23 2 = 0b10#2 ∧ w.getLsbD 20 = false then .error .testOpcodeWithSZero
    else
      .ok (Fields.instr
        { op := .ofBits (w.extractLsb' 21 4), cond := c, s := w.getLsbD 20, rn := .ofBits (w.extractLsb' 16 4),
          rd := .ofBits (w.extractLsb' 12 4), op2 := decodeOperand2 w })

/-- The word that four bytes at rising addresses spell (20_memory.md R31). -/
def wordOfBytes (ord : ByteOrder) (b0 b1 b2 b3 : Byte) : Word :=
  match ord with
  | .little => b3 ++ b2 ++ b1 ++ b0
  | .big => b0 ++ b1 ++ b2 ++ b3

/-- The byte of a word that stands at offset `k` of its four addresses (20_memory.md R31). -/
def wordByte (ord : ByteOrder) (w : Word) (k : Fin 4) : Byte :=
  match ord with
  | .little => w.extractLsb' (8 * k.val) 8
  | .big => w.extractLsb' (8 * (3 - k.val)) 8

/-- The four bytes of a word at rising addresses. -/
def bytesOfWord (ord : ByteOrder) (w : Word) : List Byte :=
  [wordByte ord w 0, wordByte ord w 1, wordByte ord w 2, wordByte ord w 3]

/-- The instruction at the front of a byte list, with the rest of the list. -/
def decode (ord : ByteOrder) (bytes : List Byte) : Except DecodeReject (Instr × List Byte) :=
  match bytes with
  | b0 :: b1 :: b2 :: b3 :: rest =>
    match decodeWord (wordOfBytes ord b0 b1 b2 b3) with
    | .ok i => .ok (i, rest)
    | .error e => .error e
  | _ => .error .truncated

/-- The I bit and the twelve operand-2 bits (30_encoding.md R42, R43, R44). -/
def Operand2.bits : Operand2 → Bool × BitVec 12
  | .imm o => (true, o.rotate ++ o.imm8)
  | .regImm o => (false, o.amount ++ (o.ty.bits ++ (0b0#1 ++ o.rm.bits)))
  | .regReg o => (false, o.rs.bits ++ (0b0#1 ++ (o.ty.bits ++ (0b1#1 ++ o.rm.bits))))

/-- The word of 30_encoding.md R41 with these fields. -/
def Fields.word (f : Fields) : Word :=
  f.cond.bits ++ (0b00#2 ++ (BitVec.ofBool f.op2.bits.1 ++ (f.op.bits ++
    (BitVec.ofBool f.s ++ (f.rn.bits ++ (f.rd.bits ++ f.op2.bits.2))))))

/-- The word of an instruction. -/
def encode (i : Instr) : Word := i.fields.word

/-- The condition an instruction executes under (30_encoding.md R47). -/
def Instr.cond (i : Instr) : Cond := i.fields.cond

/-- The S bit of an instruction (30_encoding.md R48). -/
def Instr.sBit (i : Instr) : Bool := i.fields.s

/-- The mask of an opcode-table row: the bits its match fixes (30_encoding.md R46). -/
def Fields.tableMask (f : Fields) : Word :=
  (match f.op2 with
    | .imm _ => 0x0FE00000#32
    | .regImm _ => 0x0FE00010#32
    | .regReg _ => 0x0FE00090#32) ||| (if f.op.isTest then 0x00100000#32 else 0#32)

/-- The match value of an opcode-table row (30_encoding.md R46). -/
def Fields.tableMatch (f : Fields) : Word :=
  (match f.op2 with
    | .imm _ => 0x02000000#32
    | .regImm _ => 0#32
    | .regReg _ => 0x00000010#32) |||
  (f.op.bits.setWidth 32 <<< 21) ||| (if f.op.isTest then 0x00100000#32 else 0#32)

/-- The instruction the decoder reads from the bits `w` of an opcode-table row, laid out in memory in the default
byte order; a value that does not fit the four bytes of a word is none (30_encoding.md R40). -/
def decodeTableWord (nbits w : Nat) : Option Instr :=
  let v := w % 2 ^ nbits
  if v < 2 ^ 32 then
    match decode Config.defaultParams.byteOrder (bytesOfWord Config.defaultParams.byteOrder (BitVec.ofNat 32 v)) with
    | .ok (i, _) => some i
    | .error _ => none
  else none

end Sys2Proof
end

