-- ==== Sys2Proof/Machine/State.lean ====
section
/-! DEFINITION. The state of the core as plain data, the reasons a step can stop, and the state after reset
(10_state.md section 9, 70_reset_and_hazards.md R150). -/

namespace Sys2Proof.Machine

/-- The seven modes (10_state.md R16). User is the only unprivileged one. -/
inductive Mode where
  | usr | fiq | irq | svc | abt | und | sys
deriving DecidableEq, Repr

/-- The thirty physical registers behind R0 to R14 (10_state.md R13): R0 to R7 once, R8 to R12 for FIQ mode and for
all others, R13 and R14 for User with System and for each of the five exception modes. -/
inductive PhysReg where
  | r0 | r1 | r2 | r3 | r4 | r5 | r6 | r7
  | r8 | r9 | r10 | r11 | r12
  | r13 | r14
  | r8fiq | r9fiq | r10fiq | r11fiq | r12fiq | r13fiq | r14fiq
  | r13irq | r14irq | r13svc | r14svc | r13abt | r14abt | r13und | r14und
deriving DecidableEq, Repr

/-- The contents of the thirty physical registers, each under its own name (10_state.md R10, R13). -/
structure RegFile where
  r0 : Word
  r1 : Word
  r2 : Word
  r3 : Word
  r4 : Word
  r5 : Word
  r6 : Word
  r7 : Word
  r8 : Word
  r9 : Word
  r10 : Word
  r11 : Word
  r12 : Word
  r13 : Word
  r14 : Word
  r8fiq : Word
  r9fiq : Word
  r10fiq : Word
  r11fiq : Word
  r12fiq : Word
  r13fiq : Word
  r14fiq : Word
  r13irq : Word
  r14irq : Word
  r13svc : Word
  r14svc : Word
  r13abt : Word
  r14abt : Word
  r13und : Word
  r14und : Word
deriving DecidableEq, Repr

/-- The five saved program status registers (10_state.md R19). -/
structure SpsrFile where
  fiq : Word
  irq : Word
  svc : Word
  abt : Word
  und : Word
deriving DecidableEq, Repr

/-- Memory: the bytes of the program text, addresses strictly rising (20_memory.md R30, R31). A byte that is not
listed has no value and its fetch is stuck (R34; log 5). -/
abbrev Memory := List Host.Cell

/-- Everything the spec gives the machine, and the two parameters a step reads (INVENTORY.md, State). -/
structure State where
  /-- R0 to R14 in every bank (10_state.md R10, R13). -/
  regs : RegFile
  /-- The address of the instruction being executed, R15 (10_state.md R14). -/
  pc : Word
  /-- The current program status register (10_state.md R16, R18). -/
  cpsr : Word
  /-- The saved program status registers (10_state.md R19). -/
  spsr : SpsrFile
  /-- The program text (20_memory.md R37, log 5). -/
  mem : Memory
  /-- RS_AMOUNT_BYTE and BIGEND (00_scope.md R4, logs 3 and 4); no step changes them. -/
  params : Params
deriving DecidableEq, Repr

/-- Why a step stops where the spec gives no result. Each is the spec's own choice of a `fault` or a stuck state
(93_implementation_defined.md part 1). Safe: the chip goes on in some way the source does not give. -/
inductive Fault where
  /-- The shift amount is in R15 (10_state.md R12, U1). Raised by every REG_REG meaning. Safe. -/
  | shiftAmountInPc
  /-- S = 1 with Rd = R15 in User mode (40_data_processing_common.md R69, U2). Raised by `writeResult`. Safe. -/
  | returnInUserMode
  /-- A copy of SPSR to CPSR in System mode, which has no SPSR (R69, R70, U8). Raised by `copySpsr`. Safe. -/
  | noSpsr
  /-- TSTP, CMPP or CMNP in User mode (R70, U10). Raised by `finishTest`. Safe. -/
  | testPFormInUserMode
  /-- A CPSR image with M none of the seven mode numbers (R74, U9). Raised by `copySpsr`, and by `issue` for a
  CPSR that already holds one, which no step leaves. Safe. -/
  | illegalMode
  /-- A value written to R15 is not a multiple of 4 (10_state.md R15, R68, U7). Raised by `jump`. Safe. -/
  | misalignedPcWrite
  /-- The pc is not a multiple of 4 at a fetch (20_memory.md R33), which no step leaves. Raised by `fetchWord`. Safe. -/
  | misalignedFetch
  /-- Stuck: the fetch leaves the program text (20_memory.md R34, U12). Raised by `fetchWord`. Safe. -/
  | fetchOutsideProgramText
deriving DecidableEq, Repr

/-- Why a step has no meaning. -/
inductive Refusal where
  /-- An instruction without a meaning yet, by mnemonic. Safe. -/
  | notModelled (mnemonic : String)
  /-- A word that is no data-processing instruction (30_encoding.md R49, R50, R51, R53). Raised by `step`. Safe. -/
  | outOfScopeWord (why : DecodeReject)
  /-- CPSR.T = 1, or a restored CPSR image with T = 1: Thumb state (30_encoding.md R40, R74, U9). Raised by `step`
  and by `copySpsr`. Safe. -/
  | thumbState
deriving DecidableEq, Repr

/-- Every physical register at 0. DESIGN CHOICE (unsafe): log 2. -/
def RegFile.zero : RegFile where
  r0 := 0#32
  r1 := 0#32
  r2 := 0#32
  r3 := 0#32
  r4 := 0#32
  r5 := 0#32
  r6 := 0#32
  r7 := 0#32
  r8 := 0#32
  r9 := 0#32
  r10 := 0#32
  r11 := 0#32
  r12 := 0#32
  r13 := 0#32
  r14 := 0#32
  r8fiq := 0#32
  r9fiq := 0#32
  r10fiq := 0#32
  r11fiq := 0#32
  r12fiq := 0#32
  r13fiq := 0#32
  r14fiq := 0#32
  r13irq := 0#32
  r14irq := 0#32
  r13svc := 0#32
  r14svc := 0#32
  r13abt := 0#32
  r14abt := 0#32
  r13und := 0#32
  r14und := 0#32

/-- Every SPSR at 0. DESIGN CHOICE (unsafe): log 2. -/
def SpsrFile.zero : SpsrFile := { fiq := 0#32, irq := 0#32, svc := 0#32, abt := 0#32, und := 0#32 }

/-- The machine right after reset. PRESUMED (the ARM7TDMI's own values, 70_reset_and_hazards.md R150): pc = 0,
Supervisor mode, ARM state, IRQ and FIQ masked (log 1). DESIGN CHOICE: every other register and flag is 0 (log 2).
No program text is listed (log 5), and the parameters are the spec's defaults (logs 3 and 4). -/
def State.reset : State where
  regs := .zero
  pc := 0#32
  cpsr := 0x000000D3#32
  spsr := .zero
  mem := []
  params := Config.defaultParams

end Sys2Proof.Machine
end

