-- ==== Sys2Proof/Machine/Flags.lean ====
section
/-! DEFINITION. The status-register fields, the condition table, the adder and every flag computation
(10_state.md R16, 30_encoding.md R47, 40_data_processing_common.md R65 and R66, 43_arithmetic.md R120). -/

namespace Sys2Proof.Machine

/-- The four condition flags (10_state.md R16). -/
structure Flags where
  n : Bool
  z : Bool
  c : Bool
  v : Bool
deriving DecidableEq, Repr

/-- The flags of a status word: bits 31 to 28 (10_state.md R16). -/
def psrFlags (p : Word) : Flags :=
  { n := p.getLsbD 31, z := p.getLsbD 30, c := p.getLsbD 29, v := p.getLsbD 28 }

/-- A status word with its flags replaced and bits 27 to 0 kept (10_state.md R17). -/
def psrWithFlags (p : Word) (f : Flags) : Word :=
  BitVec.ofBool f.n ++ (BitVec.ofBool f.z ++ (BitVec.ofBool f.c ++ (BitVec.ofBool f.v ++ p.extractLsb' 0 28)))

/-- The state bit T of a status word: 1 is Thumb state (10_state.md R16). -/
def psrThumb (p : Word) : Bool := p.getLsbD 5

/-- The mode a mode number stands for (10_state.md R16). -/
def modeOfBits (b : BitVec 5) : Option Mode :=
  match b with
  | 0b10000#5 => some .usr | 0b10001#5 => some .fiq | 0b10010#5 => some .irq | 0b10011#5 => some .svc
  | 0b10111#5 => some .abt | 0b11011#5 => some .und | 0b11111#5 => some .sys | _ => none

/-- The number of a mode (10_state.md R16). -/
def modeBits : Mode → BitVec 5
  | .usr => 0b10000#5 | .fiq => 0b10001#5 | .irq => 0b10010#5 | .svc => 0b10011#5
  | .abt => 0b10111#5 | .und => 0b11011#5 | .sys => 0b11111#5

/-- The mode a status word holds in bits 4 to 0, when that is one of the seven (10_state.md R16, R74). -/
def psrMode (p : Word) : Option Mode := modeOfBits (p.extractLsb' 0 5)

/-- ConditionHolds, the table of 30_encoding.md R47. -/
def condHolds (c : Cond) (f : Flags) : Bool :=
  match c with
  | .eq => f.z
  | .ne => !f.z
  | .cs => f.c
  | .cc => !f.c
  | .mi => f.n
  | .pl => !f.n
  | .vs => f.v
  | .vc => !f.v
  | .hi => f.c && !f.z
  | .ls => !f.c || f.z
  | .ge => f.n == f.v
  | .lt => f.n != f.v
  | .gt => !f.z && (f.n == f.v)
  | .le => f.z || (f.n != f.v)
  | .al => true

/-- A result and the flags that S = 1 writes with it (40_data_processing_common.md R65, R66). -/
structure AluOut where
  result : Word
  flags : Flags
deriving DecidableEq, Repr

/-- N and Z of a result with the C and V given: N is bit 31, Z is set for zero (R65, R66). -/
def withNZ (result : Word) (c v : Bool) : AluOut :=
  { result := result, flags := { n := result.msb, z := result == 0#32, c := c, v := v } }

/-- The logical class: C is the shifter's carry-out, V stays (R65). -/
def logicalOut (result : Word) (shifterCarry : Bool) (old : Flags) : AluOut :=
  withNZ result shifterCarry old.v

/-- AddWithCarry of 43_arithmetic.md R120 with the flags it gives the arithmetic class (R66): C is the carry out of
bit 31, V the signed overflow. -/
def addWithCarry (a b : Word) (cin : Bool) : AluOut :=
  let usum := a.toNat + b.toNat + cin.toNat
  let ssum := a.toInt + b.toInt + (cin.toNat : Int)
  let result := BitVec.ofNat 32 usum
  withNZ result (decide (2 ^ 32 ≤ usum)) (decide (ssum ≠ result.toInt))

end Sys2Proof.Machine
end

