-- ==== Sys2Proof/Machine/Ops.lean ====
section
/-! DEFINITION. The named operations over memory, registers and the status registers: the banks, instruction fetch,
writing R15, the return from an exception (copying SPSR to CPSR) and taking one. -/

namespace Sys2Proof.Machine

/-! ### Outcomes -/

/-- The three outcomes of a step of this machine. -/
abbrev Answer := Host.Outcome State Fault Refusal

/-- Go on from the next state, or stop as before. -/
def andThen (a : Answer) (f : State → Answer) : Answer :=
  match a with
  | .next s => f s
  | .fault r => .fault r
  | .refused r => .refused r

/-! ### Registers -/

/-- The content of a physical register. -/
def RegFile.get (f : RegFile) : PhysReg → Word
  | .r0 => f.r0
  | .r1 => f.r1
  | .r2 => f.r2
  | .r3 => f.r3
  | .r4 => f.r4
  | .r5 => f.r5
  | .r6 => f.r6
  | .r7 => f.r7
  | .r8 => f.r8
  | .r9 => f.r9
  | .r10 => f.r10
  | .r11 => f.r11
  | .r12 => f.r12
  | .r13 => f.r13
  | .r14 => f.r14
  | .r8fiq => f.r8fiq
  | .r9fiq => f.r9fiq
  | .r10fiq => f.r10fiq
  | .r11fiq => f.r11fiq
  | .r12fiq => f.r12fiq
  | .r13fiq => f.r13fiq
  | .r14fiq => f.r14fiq
  | .r13irq => f.r13irq
  | .r14irq => f.r14irq
  | .r13svc => f.r13svc
  | .r14svc => f.r14svc
  | .r13abt => f.r13abt
  | .r14abt => f.r14abt
  | .r13und => f.r13und
  | .r14und => f.r14und

/-- The register file with one physical register written. -/
def RegFile.set (f : RegFile) (p : PhysReg) (v : Word) : RegFile :=
  match p with
  | .r0 => { f with r0 := v }
  | .r1 => { f with r1 := v }
  | .r2 => { f with r2 := v }
  | .r3 => { f with r3 := v }
  | .r4 => { f with r4 := v }
  | .r5 => { f with r5 := v }
  | .r6 => { f with r6 := v }
  | .r7 => { f with r7 := v }
  | .r8 => { f with r8 := v }
  | .r9 => { f with r9 := v }
  | .r10 => { f with r10 := v }
  | .r11 => { f with r11 := v }
  | .r12 => { f with r12 := v }
  | .r13 => { f with r13 := v }
  | .r14 => { f with r14 := v }
  | .r8fiq => { f with r8fiq := v }
  | .r9fiq => { f with r9fiq := v }
  | .r10fiq => { f with r10fiq := v }
  | .r11fiq => { f with r11fiq := v }
  | .r12fiq => { f with r12fiq := v }
  | .r13fiq => { f with r13fiq := v }
  | .r14fiq => { f with r14fiq := v }
  | .r13irq => { f with r13irq := v }
  | .r14irq => { f with r14irq := v }
  | .r13svc => { f with r13svc := v }
  | .r14svc => { f with r14svc := v }
  | .r13abt => { f with r13abt := v }
  | .r14abt => { f with r14abt := v }
  | .r13und => { f with r13und := v }
  | .r14und => { f with r14und := v }

/-- The copy of a general register that a mode sees (10_state.md R13). -/
def bank (m : Mode) (g : Gpr) : PhysReg :=
  match g with
  | .r0 => .r0
  | .r1 => .r1
  | .r2 => .r2
  | .r3 => .r3
  | .r4 => .r4
  | .r5 => .r5
  | .r6 => .r6
  | .r7 => .r7
  | .r8 => match m with
    | .fiq => .r8fiq
    | .usr | .irq | .svc | .abt | .und | .sys => .r8
  | .r9 => match m with
    | .fiq => .r9fiq
    | .usr | .irq | .svc | .abt | .und | .sys => .r9
  | .r10 => match m with
    | .fiq => .r10fiq
    | .usr | .irq | .svc | .abt | .und | .sys => .r10
  | .r11 => match m with
    | .fiq => .r11fiq
    | .usr | .irq | .svc | .abt | .und | .sys => .r11
  | .r12 => match m with
    | .fiq => .r12fiq
    | .usr | .irq | .svc | .abt | .und | .sys => .r12
  | .r13 => match m with
    | .usr | .sys => .r13
    | .fiq => .r13fiq
    | .irq => .r13irq
    | .svc => .r13svc
    | .abt => .r13abt
    | .und => .r13und
  | .r14 => match m with
    | .usr | .sys => .r14
    | .fiq => .r14fiq
    | .irq => .r14irq
    | .svc => .r14svc
    | .abt => .r14abt
    | .und => .r14und

/-- x[i], for i not 15, in a mode (00_scope.md section 5, 10_state.md R13). -/
def State.readReg (s : State) (m : Mode) (g : Gpr) : Word := s.regs.get (bank m g)

/-- x[i] <- v, for i not 15, in a mode. -/
def State.writeReg (s : State) (m : Mode) (g : Gpr) (v : Word) : State :=
  { s with regs := s.regs.set (bank m g) v }

/-! ### Status registers -/

/-- The current mode, when CPSR.M is one of the seven (10_state.md R16). -/
def State.mode (s : State) : Option Mode := psrMode s.cpsr

/-- The current condition flags (10_state.md R16). -/
def State.flags (s : State) : Flags := psrFlags s.cpsr

/-- The flags written, the rest of CPSR kept (10_state.md R17). -/
def State.writeFlags (s : State) (f : Flags) : State := { s with cpsr := psrWithFlags s.cpsr f }

/-- SPSR[m]: the five exception modes have one, User and System none (10_state.md R19). -/
def SpsrFile.get (f : SpsrFile) : Mode → Option Word
  | .fiq => some f.fiq
  | .irq => some f.irq
  | .svc => some f.svc
  | .abt => some f.abt
  | .und => some f.und
  | .usr | .sys => none

/-- SPSR[m] <- v; nothing for a mode that has none (10_state.md R19). -/
def SpsrFile.set (f : SpsrFile) (m : Mode) (v : Word) : SpsrFile :=
  match m with
  | .fiq => { f with fiq := v }
  | .irq => { f with irq := v }
  | .svc => { f with svc := v }
  | .abt => { f with abt := v }
  | .und => { f with und := v }
  | .usr | .sys => f

/-! ### The program counter -/

/-- pc <- pc + 4 modulo 2^32 (40_data_processing_common.md R71, log 18). -/
def State.advance (s : State) : State := { s with pc := s.pc + 4#32 }

/-- An address is a multiple of 4 (10_state.md R15). -/
def aligned (a : Word) : Bool := a.extractLsb' 0 2 == 0#2

/-- Writing R15: the next instruction is fetched from the target, which must be a multiple of 4
(40_data_processing_common.md R68, log 6). -/
def jump (target : Word) (s : State) : Answer :=
  if aligned target then .next { s with pc := target } else .fault .misalignedPcWrite

/-! ### Returning from an exception, and taking one -/

/-- CPSR <- SPSR[m], all 32 bits (40_data_processing_common.md R69, R70, R74). The restored image must hold a mode
number and T = 0; the order of these two checks is DEDUCED from R74's own order (log 9). -/
def copySpsr (m : Mode) (s : State) : Answer :=
  match s.spsr.get m with
  | none => .fault .noSpsr
  | some saved =>
    match psrMode saved with
    | none => .fault .illegalMode
    | some _ => if psrThumb saved then .refused .thumbState else .next { s with cpsr := saved }

/-- The return from an exception: S = 1 with Rd = R15. Not permitted in User mode; else CPSR <- SPSR[m] and
pc <- target in one step (40_data_processing_common.md R69, 60_exceptions.md R145). The alignment check comes last
(60_exceptions.md R143, log 9). -/
def returnFromException (m : Mode) (target : Word) (s : State) : Answer :=
  if m = .usr then .fault .returnInUserMode else andThen (copySpsr m s) (jump target)

/-- The exceptions of 60_exceptions.md R141 but Reset, whose entry is the reset state (R150). -/
inductive Exception where
  | undefinedInstruction | softwareInterrupt | prefetchAbort | dataAbort | irq | fiq
deriving DecidableEq, Repr

/-- The vector address (60_exceptions.md R141). -/
def exceptionVector : Exception → Word
  | .undefinedInstruction => 0x00000004#32
  | .softwareInterrupt => 0x00000008#32
  | .prefetchAbort => 0x0000000C#32
  | .dataAbort => 0x00000010#32
  | .irq => 0x00000018#32
  | .fiq => 0x0000001C#32

/-- The mode entered (60_exceptions.md R141). -/
def exceptionMode : Exception → Mode
  | .undefinedInstruction => .und
  | .softwareInterrupt => .svc
  | .prefetchAbort | .dataAbort => .abt
  | .irq => .irq
  | .fiq => .fiq

/-- What entry adds to the address of the next instruction when it saves it: 0 or 4 (60_exceptions.md R144). Which
exception has which is DEDUCED from the return instructions of R145 (log 21). -/
def exceptionLinkOffset : Exception → Word
  | .undefinedInstruction | .softwareInterrupt | .prefetchAbort => 0#32
  | .dataAbort | .irq | .fiq => 4#32

/-- CPSR on entry: M the mode entered, T = 0, I = 1, F = 1 for FIQ and else kept (60_exceptions.md R144). -/
def exceptionCpsr (e : Exception) (p : Word) : Word :=
  p.extractLsb' 8 24 ++ (0b1#1 ++ (BitVec.ofBool (p.getLsbD 6 || e == .fiq) ++ (0b0#1 ++ modeBits (exceptionMode e))))

/-- Taking an exception, as 60_exceptions.md R144 describes it: R14 of the mode entered gets the address of the next
instruction plus the offset, its SPSR gets CPSR, the mode and the masks change and the pc goes to the vector. No
instruction in scope takes one (R72, R140) and no step calls this (log 14). -/
def takeException (e : Exception) (nextInstr : Word) (s : State) : State :=
  let m := exceptionMode e
  { s with
    regs := s.regs.set (bank m .r14) (nextInstr + exceptionLinkOffset e)
    spsr := s.spsr.set m s.cpsr
    cpsr := exceptionCpsr e s.cpsr
    pc := exceptionVector e }

/-! ### Memory and instruction fetch -/

/-- What an unlisted address reads as: nothing (20_memory.md R34, log 5). -/
abbrev unlistedByte : Option Byte := none

/-- One byte of memory. -/
def readByte (mem : Memory) (a : Nat) : Option Byte :=
  match mem with
  | [] => unlistedByte
  | (k, b) :: rest => if k = a then some b else readByte rest a

/-- One byte of memory supplied, in its place among the rising addresses. -/
def writeByte (mem : Memory) (a : Nat) (v : Byte) : Memory :=
  match mem with
  | [] => [(a, v)]
  | (k, b) :: rest =>
    if a < k then (a, v) :: (k, b) :: rest
    else if a = k then (a, v) :: rest
    else (k, b) :: writeByte rest a v

/-- The canonical form of a memory whose addresses are all at least `lo`: strictly rising, inside the 32-bit address
space (20_memory.md R30). -/
def Memory.wfFrom (lo : Nat) : Memory → Bool
  | [] => true
  | (k, _) :: rest => decide (lo ≤ k) && decide (k < 2 ^ 32) && Memory.wfFrom (k + 1) rest

/-- The canonical form of memory. No entry can equal what an unlisted address reads as, which is no value. -/
def Memory.wf (mem : Memory) : Bool := Memory.wfFrom 0 mem

/-- The byte address `k` places after `a`, modulo 2^32 (log 18). -/
def byteAddr (a : Word) (k : Fin 4) : Nat := (a + BitVec.ofNat 32 k.val).toNat

/-- MemRead(a, 4) in a byte order, when the program text supplies all four bytes (20_memory.md R31). -/
def readWord (ord : ByteOrder) (mem : Memory) (a : Word) : Option Word :=
  match readByte mem (byteAddr a 0), readByte mem (byteAddr a 1), readByte mem (byteAddr a 2), readByte mem (byteAddr a 3) with
  | some b0, some b1, some b2, some b3 => some (wordOfBytes ord b0 b1 b2 b3)
  | _, _, _, _ => none

/-- A word of program text supplied at an address, in a byte order (20_memory.md R31). -/
def writeWord (ord : ByteOrder) (mem : Memory) (a w : Word) : Memory :=
  writeByte (writeByte (writeByte (writeByte mem (byteAddr a 0) (wordByte ord w 0)) (byteAddr a 1) (wordByte ord w 1))
    (byteAddr a 2) (wordByte ord w 2)) (byteAddr a 3) (wordByte ord w 3)

/-- Program text supplied from outside the machine: a base address and a list of words (92_eei_decisions.md D21). -/
def loadProgram (ord : ByteOrder) (mem : Memory) (base : Word) : List Word → Memory
  | [] => mem
  | w :: ws => loadProgram ord (writeWord ord mem base w) (base + 4#32) ws

/-- Instruction fetch at the pc (20_memory.md R31, R33, R34). -/
def fetchWord (s : State) : Except Fault Word :=
  if aligned s.pc then
    match readWord s.params.byteOrder s.mem s.pc with
    | some w => .ok w
    | none => .error .fetchOutsideProgramText
  else .error .misalignedFetch

end Sys2Proof.Machine
end

