-- ==== Sys2Proof/Machine/Operands.lean ====
section
/-! DEFINITION. Reading operands: R15 as an operand (40_data_processing_common.md R61) and the shifter with every form
of operand 2 (41_operand2_shifter.md R80 to R99). -/

namespace Sys2Proof.Machine

/-- Operand 2 and the shifter's carry-out (41_operand2_shifter.md R80). -/
structure ShifterOut where
  value : Word
  carry : Bool
deriving DecidableEq, Repr

/-- How far ahead of the instruction R15 reads: 12 when the shift amount comes from a register, else 8
(40_data_processing_common.md R61). -/
def pcReadAhead (o : Operand2) : Word :=
  match o with
  | .imm _ | .regImm _ => 8#32
  | .regReg _ => 12#32

/-- ReadOperandReg: an operand named by Rn or Rm, in an instruction whose operand 2 is `o` (R61). -/
def readOperandReg (s : State) (m : Mode) (o : Operand2) (r : Reg) : Word :=
  match r with
  | .gpr g => s.readReg m g
  | .pc => s.pc + pcReadAhead o

/-- The value and carry-out of an immediate operand: rotated right by twice the count (R81); C for no rotation, else
bit 31 of the operand (R82, log 19). -/
def immShift (o : ImmOperand) (c : Bool) : ShifterOut :=
  let value := (o.imm8.setWidth 32).rotateRight (2 * o.rotate.toNat)
  { value := value, carry := if o.rotate = 0#4 then c else value.msb }

/-- A shift by `n` from 1 to 31: the carry-out is the last bit pushed out (41_operand2_shifter.md R83, R85, R87, R89,
log 19). -/
def shiftBy (ty : ShiftType) (v : Word) (n : Nat) : ShifterOut :=
  match ty with
  | .lsl => { value := v <<< n, carry := v.getLsbD (32 - n) }
  | .lsr => { value := v >>> n, carry := v.getLsbD (n - 1) }
  | .asr => { value := v.sshiftRight n, carry := v.getLsbD (n - 1) }
  | .ror => { value := v.rotateRight n, carry := v.getLsbD (n - 1) }

/-- Bit 31 in every place (41_operand2_shifter.md R88, R96). -/
def signFill (v : Word) : Word := if v.msb then 0xFFFFFFFF#32 else 0#32

/-- A shift by an amount in the instruction (41_operand2_shifter.md R83 to R90): amount 0 is no shift for LSL (R84),
32 for LSR and ASR (R86, R88) and RRX for ROR (R90). -/
def shiftByImm (ty : ShiftType) (v : Word) (amount : BitVec 5) (c : Bool) : ShifterOut :=
  if amount = 0#5 then
    match ty with
    | .lsl => { value := v, carry := c }
    | .lsr => { value := 0#32, carry := v.msb }
    | .asr => { value := signFill v, carry := v.msb }
    | .ror => { value := BitVec.ofBool c ++ v.extractLsb' 1 31, carry := v.getLsbD 0 }
  else shiftBy ty v amount.toNat

/-- A rotation amount above 32 reduced to 1 to 32 by taking 32 away, never to 0 (41_operand2_shifter.md R97). -/
def reduceRotation (n : Nat) : Nat := (n - 1) % 32 + 1

/-- A rotation by an amount from 1 to 32 (41_operand2_shifter.md R97). -/
def rotateUpTo32 (v : Word) (n : Nat) : ShifterOut :=
  if n = 32 then { value := v, carry := v.msb } else shiftBy .ror v n

/-- A shift by an amount held in a register (41_operand2_shifter.md R92 to R97). -/
def shiftByReg (ty : ShiftType) (v : Word) (n : Nat) (c : Bool) : ShifterOut :=
  if n = 0 then { value := v, carry := c }
  else if n < 32 then shiftBy ty v n
  else
    match ty with
    | .lsl => { value := 0#32, carry := n == 32 && v.getLsbD 0 }
    | .lsr => { value := 0#32, carry := n == 32 && v.msb }
    | .asr => { value := signFill v, carry := v.msb }
    | .ror => rotateUpTo32 v (reduceRotation n)

/-- The byte of Rs that gives the amount (41_operand2_shifter.md R91, log 3). -/
def rsAmount (p : RsAmountByte) (rs : Word) : Nat :=
  match p with
  | .low => (rs.extractLsb' 0 8).toNat
  | .high => (rs.extractLsb' 24 8).toNat

/-- Shifter(instr): operand 2 and the carry-out, from the registers and the C flag before the instruction
(41_operand2_shifter.md R80). Rs is read as a general register: an instruction with Rs = R15 stops before this
(`shiftAmountInPc`; R91, R99). -/
def shifter (s : State) (m : Mode) (o : Operand2) : ShifterOut :=
  match o with
  | .imm i => immShift i s.flags.c
  | .regImm i => shiftByImm i.ty (readOperandReg s m o i.rm) i.amount s.flags.c
  | .regReg i =>
    shiftByReg i.ty (readOperandReg s m o i.rm) (rsAmount s.params.rsAmountByte (readOperandReg s m o i.rs)) s.flags.c

/-- Rs = R15 (10_state.md R12). -/
def shiftAmountInPc (o : Operand2) : Bool :=
  match o with
  | .imm _ | .regImm _ => false
  | .regReg i => i.rs == .pc

end Sys2Proof.Machine
end

