-- ==== Sys2Proof/Machine/DataProcessing.lean ====
section
/-! DEFINITION. The frame every data-processing instruction executes in (40_data_processing_common.md R60 to R74):
the checks before it, the operands, and where the result and the flags go. -/

namespace Sys2Proof.Machine

/-- What an operation computes from operand 1, operand 2 with its carry-out, and the old flags: the result and the
flags that S = 1 writes (40_data_processing_common.md R62 step 3). -/
abbrev Alu := Word → ShifterOut → Flags → AluOut

/-- The checks in the order of 60_exceptions.md R143: Rs = R15 faults whatever the condition (log 10); a false
condition only advances the pc (R60, log 20). -/
def issue (c : Cond) (o : Operand2) (s : State) (run : Mode → Answer) : Answer :=
  if shiftAmountInPc o then .fault .shiftAmountInPc
  else
    match s.mode with
    | none => .fault .illegalMode
    | some m => if condHolds c s.flags then run m else .next s.advance

/-- Steps 4 to 6 of R62 for an operation that writes its result: to a general register, with the flags when S = 1
(R64 to R67, R71), or to R15 (R68), with CPSR restored when S = 1 (R69). -/
def writeResult (m : Mode) (sBit : Bool) (rd : Reg) (out : AluOut) (s : State) : Answer :=
  match rd with
  | .gpr g =>
    let s' := s.writeReg m g out.result
    .next (if sBit then s'.writeFlags out.flags else s').advance
  | .pc => if sBit then returnFromException m out.result s else jump out.result s

/-- Steps 4 to 6 of R62 for TST, TEQ, CMP and CMN: the flags only (R64 to R66), or the P form when Rd is 1111 (R70).
`isTeq` tells TEQP, which does nothing in User mode, from the other three, which fault there (log 8). -/
def finishTest (m : Mode) (isTeq : Bool) (rd : Reg) (out : AluOut) (s : State) : Answer :=
  match rd with
  | .gpr _ => .next (s.writeFlags out.flags).advance
  | .pc =>
    if m = .usr then
      if isTeq then .next s.advance else .fault .testPFormInUserMode
    else andThen (copySpsr m s) (fun s' => .next s'.advance)

/-- An operation on Rn and operand 2 (R62). -/
def binaryOp (alu : Alu) (c : Cond) (sBit : Bool) (rn rd : Reg) (o : Operand2) (s : State) : Answer :=
  issue c o s fun m => writeResult m sBit rd (alu (readOperandReg s m o rn) (shifter s m o) s.flags) s

/-- MOV and MVN: an operation on operand 2 alone; Rn is not read (30_encoding.md R52). -/
def moveOp (alu : ShifterOut → Flags → AluOut) (c : Cond) (sBit : Bool) (rd : Reg) (o : Operand2) (s : State) : Answer :=
  issue c o s fun m => writeResult m sBit rd (alu (shifter s m o) s.flags) s

/-- TST, TEQ, CMP and CMN (R62, R64). -/
def testOp (alu : Alu) (isTeq : Bool) (c : Cond) (rn rd : Reg) (o : Operand2) (s : State) : Answer :=
  issue c o s fun m => finishTest m isTeq rd (alu (readOperandReg s m o rn) (shifter s m o) s.flags) s

end Sys2Proof.Machine
end

