-- ==== Sys2Proof/Machine/Arithmetic.lean ====
section
/-! DEFINITION. The arithmetic class (43_arithmetic.md R120 to R128): one operation per mnemonic
and one meaning per row of the opcode table. -/

namespace Sys2Proof.Machine

/-- SUB (R121); also CMP (R127), which discards the result. -/
def subAlu : Alu := fun op1 sh _ => addWithCarry op1 (~~~sh.value) true

/-- RSB (R122). -/
def rsbAlu : Alu := fun op1 sh _ => addWithCarry sh.value (~~~op1) true

/-- ADD (R123); also CMN (R128), which discards the result. -/
def addAlu : Alu := fun op1 sh _ => addWithCarry op1 sh.value false

/-- ADC (R124). -/
def adcAlu : Alu := fun op1 sh f => addWithCarry op1 sh.value f.c

/-- SBC (R125). -/
def sbcAlu : Alu := fun op1 sh f => addWithCarry op1 (~~~sh.value) f.c

/-- RSC (R126). -/
def rscAlu : Alu := fun op1 sh f => addWithCarry sh.value (~~~op1) f.c

/-- SUB with an immediate operand 2 (R121). -/
def execSubImm (c : Cond) (sBit : Bool) (rn rd : Reg) (o : ImmOperand) (s : State) : Answer :=
  binaryOp subAlu c sBit rn rd (.imm o) s

/-- SUB with Rm shifted by an amount in the instruction (R121). -/
def execSubRegImm (c : Cond) (sBit : Bool) (rn rd : Reg) (o : ShiftImmOperand) (s : State) : Answer :=
  binaryOp subAlu c sBit rn rd (.regImm o) s

/-- SUB with Rm shifted by an amount held in Rs (R121). -/
def execSubRegReg (c : Cond) (sBit : Bool) (rn rd : Reg) (o : ShiftRegOperand) (s : State) : Answer :=
  binaryOp subAlu c sBit rn rd (.regReg o) s

/-- RSB with an immediate operand 2 (R122). -/
def execRsbImm (c : Cond) (sBit : Bool) (rn rd : Reg) (o : ImmOperand) (s : State) : Answer :=
  binaryOp rsbAlu c sBit rn rd (.imm o) s

/-- RSB with Rm shifted by an amount in the instruction (R122). -/
def execRsbRegImm (c : Cond) (sBit : Bool) (rn rd : Reg) (o : ShiftImmOperand) (s : State) : Answer :=
  binaryOp rsbAlu c sBit rn rd (.regImm o) s

/-- RSB with Rm shifted by an amount held in Rs (R122). -/
def execRsbRegReg (c : Cond) (sBit : Bool) (rn rd : Reg) (o : ShiftRegOperand) (s : State) : Answer :=
  binaryOp rsbAlu c sBit rn rd (.regReg o) s

/-- ADD with an immediate operand 2 (R123). -/
def execAddImm (c : Cond) (sBit : Bool) (rn rd : Reg) (o : ImmOperand) (s : State) : Answer :=
  binaryOp addAlu c sBit rn rd (.imm o) s

/-- ADD with Rm shifted by an amount in the instruction (R123). -/
def execAddRegImm (c : Cond) (sBit : Bool) (rn rd : Reg) (o : ShiftImmOperand) (s : State) : Answer :=
  binaryOp addAlu c sBit rn rd (.regImm o) s

/-- ADD with Rm shifted by an amount held in Rs (R123). -/
def execAddRegReg (c : Cond) (sBit : Bool) (rn rd : Reg) (o : ShiftRegOperand) (s : State) : Answer :=
  binaryOp addAlu c sBit rn rd (.regReg o) s

/-- ADC with an immediate operand 2 (R124). -/
def execAdcImm (c : Cond) (sBit : Bool) (rn rd : Reg) (o : ImmOperand) (s : State) : Answer :=
  binaryOp adcAlu c sBit rn rd (.imm o) s

/-- ADC with Rm shifted by an amount in the instruction (R124). -/
def execAdcRegImm (c : Cond) (sBit : Bool) (rn rd : Reg) (o : ShiftImmOperand) (s : State) : Answer :=
  binaryOp adcAlu c sBit rn rd (.regImm o) s

/-- ADC with Rm shifted by an amount held in Rs (R124). -/
def execAdcRegReg (c : Cond) (sBit : Bool) (rn rd : Reg) (o : ShiftRegOperand) (s : State) : Answer :=
  binaryOp adcAlu c sBit rn rd (.regReg o) s

/-- SBC with an immediate operand 2 (R125). -/
def execSbcImm (c : Cond) (sBit : Bool) (rn rd : Reg) (o : ImmOperand) (s : State) : Answer :=
  binaryOp sbcAlu c sBit rn rd (.imm o) s

/-- SBC with Rm shifted by an amount in the instruction (R125). -/
def execSbcRegImm (c : Cond) (sBit : Bool) (rn rd : Reg) (o : ShiftImmOperand) (s : State) : Answer :=
  binaryOp sbcAlu c sBit rn rd (.regImm o) s

/-- SBC with Rm shifted by an amount held in Rs (R125). -/
def execSbcRegReg (c : Cond) (sBit : Bool) (rn rd : Reg) (o : ShiftRegOperand) (s : State) : Answer :=
  binaryOp sbcAlu c sBit rn rd (.regReg o) s

/-- RSC with an immediate operand 2 (R126). -/
def execRscImm (c : Cond) (sBit : Bool) (rn rd : Reg) (o : ImmOperand) (s : State) : Answer :=
  binaryOp rscAlu c sBit rn rd (.imm o) s

/-- RSC with Rm shifted by an amount in the instruction (R126). -/
def execRscRegImm (c : Cond) (sBit : Bool) (rn rd : Reg) (o : ShiftImmOperand) (s : State) : Answer :=
  binaryOp rscAlu c sBit rn rd (.regImm o) s

/-- RSC with Rm shifted by an amount held in Rs (R126). -/
def execRscRegReg (c : Cond) (sBit : Bool) (rn rd : Reg) (o : ShiftRegOperand) (s : State) : Answer :=
  binaryOp rscAlu c sBit rn rd (.regReg o) s

/-- CMP with an immediate operand 2 (R127). -/
def execCmpImm (c : Cond) (rn rd : Reg) (o : ImmOperand) (s : State) : Answer :=
  testOp subAlu false c rn rd (.imm o) s

/-- CMP with Rm shifted by an amount in the instruction (R127). -/
def execCmpRegImm (c : Cond) (rn rd : Reg) (o : ShiftImmOperand) (s : State) : Answer :=
  testOp subAlu false c rn rd (.regImm o) s

/-- CMP with Rm shifted by an amount held in Rs (R127). -/
def execCmpRegReg (c : Cond) (rn rd : Reg) (o : ShiftRegOperand) (s : State) : Answer :=
  testOp subAlu false c rn rd (.regReg o) s

/-- CMN with an immediate operand 2 (R128). -/
def execCmnImm (c : Cond) (rn rd : Reg) (o : ImmOperand) (s : State) : Answer :=
  testOp addAlu false c rn rd (.imm o) s

/-- CMN with Rm shifted by an amount in the instruction (R128). -/
def execCmnRegImm (c : Cond) (rn rd : Reg) (o : ShiftImmOperand) (s : State) : Answer :=
  testOp addAlu false c rn rd (.regImm o) s

/-- CMN with Rm shifted by an amount held in Rs (R128). -/
def execCmnRegReg (c : Cond) (rn rd : Reg) (o : ShiftRegOperand) (s : State) : Answer :=
  testOp addAlu false c rn rd (.regReg o) s

end Sys2Proof.Machine
end

