-- ==== Sys2Proof/Machine/Logical.lean ====
section
/-! DEFINITION. The logical class (42_logical.md R110 to R118): one operation per mnemonic
and one meaning per row of the opcode table. -/

namespace Sys2Proof.Machine

/-- AND (R111); also TST (R113), which discards the result. -/
def andAlu : Alu := fun op1 sh f => logicalOut (op1 &&& sh.value) sh.carry f

/-- EOR (R112); also TEQ (R114), which discards the result. -/
def eorAlu : Alu := fun op1 sh f => logicalOut (op1 ^^^ sh.value) sh.carry f

/-- ORR (R115). -/
def orrAlu : Alu := fun op1 sh f => logicalOut (op1 ||| sh.value) sh.carry f

/-- MOV (R116). -/
def movAlu : ShifterOut → Flags → AluOut := fun sh f => logicalOut (sh.value) sh.carry f

/-- BIC (R117). -/
def bicAlu : Alu := fun op1 sh f => logicalOut (op1 &&& ~~~sh.value) sh.carry f

/-- MVN (R118). -/
def mvnAlu : ShifterOut → Flags → AluOut := fun sh f => logicalOut (~~~sh.value) sh.carry f

/-- AND with an immediate operand 2 (R111). -/
def execAndImm (c : Cond) (sBit : Bool) (rn rd : Reg) (o : ImmOperand) (s : State) : Answer :=
  binaryOp andAlu c sBit rn rd (.imm o) s

/-- AND with Rm shifted by an amount in the instruction (R111). -/
def execAndRegImm (c : Cond) (sBit : Bool) (rn rd : Reg) (o : ShiftImmOperand) (s : State) : Answer :=
  binaryOp andAlu c sBit rn rd (.regImm o) s

/-- AND with Rm shifted by an amount held in Rs (R111). -/
def execAndRegReg (c : Cond) (sBit : Bool) (rn rd : Reg) (o : ShiftRegOperand) (s : State) : Answer :=
  binaryOp andAlu c sBit rn rd (.regReg o) s

/-- EOR with an immediate operand 2 (R112). -/
def execEorImm (c : Cond) (sBit : Bool) (rn rd : Reg) (o : ImmOperand) (s : State) : Answer :=
  binaryOp eorAlu c sBit rn rd (.imm o) s

/-- EOR with Rm shifted by an amount in the instruction (R112). -/
def execEorRegImm (c : Cond) (sBit : Bool) (rn rd : Reg) (o : ShiftImmOperand) (s : State) : Answer :=
  binaryOp eorAlu c sBit rn rd (.regImm o) s

/-- EOR with Rm shifted by an amount held in Rs (R112). -/
def execEorRegReg (c : Cond) (sBit : Bool) (rn rd : Reg) (o : ShiftRegOperand) (s : State) : Answer :=
  binaryOp eorAlu c sBit rn rd (.regReg o) s

/-- TST with an immediate operand 2 (R113). -/
def execTstImm (c : Cond) (rn rd : Reg) (o : ImmOperand) (s : State) : Answer :=
  testOp andAlu false c rn rd (.imm o) s

/-- TST with Rm shifted by an amount in the instruction (R113). -/
def execTstRegImm (c : Cond) (rn rd : Reg) (o : ShiftImmOperand) (s : State) : Answer :=
  testOp andAlu false c rn rd (.regImm o) s

/-- TST with Rm shifted by an amount held in Rs (R113). -/
def execTstRegReg (c : Cond) (rn rd : Reg) (o : ShiftRegOperand) (s : State) : Answer :=
  testOp andAlu false c rn rd (.regReg o) s

/-- TEQ with an immediate operand 2 (R114). -/
def execTeqImm (c : Cond) (rn rd : Reg) (o : ImmOperand) (s : State) : Answer :=
  testOp eorAlu true c rn rd (.imm o) s

/-- TEQ with Rm shifted by an amount in the instruction (R114). -/
def execTeqRegImm (c : Cond) (rn rd : Reg) (o : ShiftImmOperand) (s : State) : Answer :=
  testOp eorAlu true c rn rd (.regImm o) s

/-- TEQ with Rm shifted by an amount held in Rs (R114). -/
def execTeqRegReg (c : Cond) (rn rd : Reg) (o : ShiftRegOperand) (s : State) : Answer :=
  testOp eorAlu true c rn rd (.regReg o) s

/-- ORR with an immediate operand 2 (R115). -/
def execOrrImm (c : Cond) (sBit : Bool) (rn rd : Reg) (o : ImmOperand) (s : State) : Answer :=
  binaryOp orrAlu c sBit rn rd (.imm o) s

/-- ORR with Rm shifted by an amount in the instruction (R115). -/
def execOrrRegImm (c : Cond) (sBit : Bool) (rn rd : Reg) (o : ShiftImmOperand) (s : State) : Answer :=
  binaryOp orrAlu c sBit rn rd (.regImm o) s

/-- ORR with Rm shifted by an amount held in Rs (R115). -/
def execOrrRegReg (c : Cond) (sBit : Bool) (rn rd : Reg) (o : ShiftRegOperand) (s : State) : Answer :=
  binaryOp orrAlu c sBit rn rd (.regReg o) s

/-- MOV with an immediate operand 2 (R116). -/
def execMovImm (c : Cond) (sBit : Bool) (_rn rd : Reg) (o : ImmOperand) (s : State) : Answer :=
  moveOp movAlu c sBit rd (.imm o) s

/-- MOV with Rm shifted by an amount in the instruction (R116). -/
def execMovRegImm (c : Cond) (sBit : Bool) (_rn rd : Reg) (o : ShiftImmOperand) (s : State) : Answer :=
  moveOp movAlu c sBit rd (.regImm o) s

/-- MOV with Rm shifted by an amount held in Rs (R116). -/
def execMovRegReg (c : Cond) (sBit : Bool) (_rn rd : Reg) (o : ShiftRegOperand) (s : State) : Answer :=
  moveOp movAlu c sBit rd (.regReg o) s

/-- BIC with an immediate operand 2 (R117). -/
def execBicImm (c : Cond) (sBit : Bool) (rn rd : Reg) (o : ImmOperand) (s : State) : Answer :=
  binaryOp bicAlu c sBit rn rd (.imm o) s

/-- BIC with Rm shifted by an amount in the instruction (R117). -/
def execBicRegImm (c : Cond) (sBit : Bool) (rn rd : Reg) (o : ShiftImmOperand) (s : State) : Answer :=
  binaryOp bicAlu c sBit rn rd (.regImm o) s

/-- BIC with Rm shifted by an amount held in Rs (R117). -/
def execBicRegReg (c : Cond) (sBit : Bool) (rn rd : Reg) (o : ShiftRegOperand) (s : State) : Answer :=
  binaryOp bicAlu c sBit rn rd (.regReg o) s

/-- MVN with an immediate operand 2 (R118). -/
def execMvnImm (c : Cond) (sBit : Bool) (_rn rd : Reg) (o : ImmOperand) (s : State) : Answer :=
  moveOp mvnAlu c sBit rd (.imm o) s

/-- MVN with Rm shifted by an amount in the instruction (R118). -/
def execMvnRegImm (c : Cond) (sBit : Bool) (_rn rd : Reg) (o : ShiftImmOperand) (s : State) : Answer :=
  moveOp mvnAlu c sBit rd (.regImm o) s

/-- MVN with Rm shifted by an amount held in Rs (R118). -/
def execMvnRegReg (c : Cond) (sBit : Bool) (_rn rd : Reg) (o : ShiftRegOperand) (s : State) : Answer :=
  moveOp mvnAlu c sBit rd (.regReg o) s

end Sys2Proof.Machine
end

