-- ==== Sys2Proof/Machine/Dispatch.lean ====
section
/-! DEFINITION. The meaning of each instruction, by constructor. -/

namespace Sys2Proof.Machine

def exec (i : Instr) (s : State) : Host.Outcome State Fault Refusal :=
  match i with
  -- with an immediate operand 2
  | .andImm c sBit rn rd o => Sys2Proof.Machine.execAndImm c sBit rn rd o s
  | .eorImm c sBit rn rd o => Sys2Proof.Machine.execEorImm c sBit rn rd o s
  | .subImm c sBit rn rd o => Sys2Proof.Machine.execSubImm c sBit rn rd o s
  | .rsbImm c sBit rn rd o => Sys2Proof.Machine.execRsbImm c sBit rn rd o s
  | .addImm c sBit rn rd o => Sys2Proof.Machine.execAddImm c sBit rn rd o s
  | .adcImm c sBit rn rd o => Sys2Proof.Machine.execAdcImm c sBit rn rd o s
  | .sbcImm c sBit rn rd o => Sys2Proof.Machine.execSbcImm c sBit rn rd o s
  | .rscImm c sBit rn rd o => Sys2Proof.Machine.execRscImm c sBit rn rd o s
  | .tstImm c rn rd o => Sys2Proof.Machine.execTstImm c rn rd o s
  | .teqImm c rn rd o => Sys2Proof.Machine.execTeqImm c rn rd o s
  | .cmpImm c rn rd o => Sys2Proof.Machine.execCmpImm c rn rd o s
  | .cmnImm c rn rd o => Sys2Proof.Machine.execCmnImm c rn rd o s
  | .orrImm c sBit rn rd o => Sys2Proof.Machine.execOrrImm c sBit rn rd o s
  | .movImm c sBit rn rd o => Sys2Proof.Machine.execMovImm c sBit rn rd o s
  | .bicImm c sBit rn rd o => Sys2Proof.Machine.execBicImm c sBit rn rd o s
  | .mvnImm c sBit rn rd o => Sys2Proof.Machine.execMvnImm c sBit rn rd o s
  -- with Rm shifted by an amount in the instruction
  | .andRegImm c sBit rn rd o => Sys2Proof.Machine.execAndRegImm c sBit rn rd o s
  | .eorRegImm c sBit rn rd o => Sys2Proof.Machine.execEorRegImm c sBit rn rd o s
  | .subRegImm c sBit rn rd o => Sys2Proof.Machine.execSubRegImm c sBit rn rd o s
  | .rsbRegImm c sBit rn rd o => Sys2Proof.Machine.execRsbRegImm c sBit rn rd o s
  | .addRegImm c sBit rn rd o => Sys2Proof.Machine.execAddRegImm c sBit rn rd o s
  | .adcRegImm c sBit rn rd o => Sys2Proof.Machine.execAdcRegImm c sBit rn rd o s
  | .sbcRegImm c sBit rn rd o => Sys2Proof.Machine.execSbcRegImm c sBit rn rd o s
  | .rscRegImm c sBit rn rd o => Sys2Proof.Machine.execRscRegImm c sBit rn rd o s
  | .tstRegImm c rn rd o => Sys2Proof.Machine.execTstRegImm c rn rd o s
  | .teqRegImm c rn rd o => Sys2Proof.Machine.execTeqRegImm c rn rd o s
  | .cmpRegImm c rn rd o => Sys2Proof.Machine.execCmpRegImm c rn rd o s
  | .cmnRegImm c rn rd o => Sys2Proof.Machine.execCmnRegImm c rn rd o s
  | .orrRegImm c sBit rn rd o => Sys2Proof.Machine.execOrrRegImm c sBit rn rd o s
  | .movRegImm c sBit rn rd o => Sys2Proof.Machine.execMovRegImm c sBit rn rd o s
  | .bicRegImm c sBit rn rd o => Sys2Proof.Machine.execBicRegImm c sBit rn rd o s
  | .mvnRegImm c sBit rn rd o => Sys2Proof.Machine.execMvnRegImm c sBit rn rd o s
  -- with Rm shifted by an amount held in Rs
  | .andRegReg c sBit rn rd o => Sys2Proof.Machine.execAndRegReg c sBit rn rd o s
  | .eorRegReg c sBit rn rd o => Sys2Proof.Machine.execEorRegReg c sBit rn rd o s
  | .subRegReg c sBit rn rd o => Sys2Proof.Machine.execSubRegReg c sBit rn rd o s
  | .rsbRegReg c sBit rn rd o => Sys2Proof.Machine.execRsbRegReg c sBit rn rd o s
  | .addRegReg c sBit rn rd o => Sys2Proof.Machine.execAddRegReg c sBit rn rd o s
  | .adcRegReg c sBit rn rd o => Sys2Proof.Machine.execAdcRegReg c sBit rn rd o s
  | .sbcRegReg c sBit rn rd o => Sys2Proof.Machine.execSbcRegReg c sBit rn rd o s
  | .rscRegReg c sBit rn rd o => Sys2Proof.Machine.execRscRegReg c sBit rn rd o s
  | .tstRegReg c rn rd o => Sys2Proof.Machine.execTstRegReg c rn rd o s
  | .teqRegReg c rn rd o => Sys2Proof.Machine.execTeqRegReg c rn rd o s
  | .cmpRegReg c rn rd o => Sys2Proof.Machine.execCmpRegReg c rn rd o s
  | .cmnRegReg c rn rd o => Sys2Proof.Machine.execCmnRegReg c rn rd o s
  | .orrRegReg c sBit rn rd o => Sys2Proof.Machine.execOrrRegReg c sBit rn rd o s
  | .movRegReg c sBit rn rd o => Sys2Proof.Machine.execMovRegReg c sBit rn rd o s
  | .bicRegReg c sBit rn rd o => Sys2Proof.Machine.execBicRegReg c sBit rn rd o s
  | .mvnRegReg c sBit rn rd o => Sys2Proof.Machine.execMvnRegReg c sBit rn rd o s

end Sys2Proof.Machine
end

