-- ==== Sys2Proof/Machine/Step.lean ====
section
/-! DEFINITION. One step: fetch, decode, execute (INDEX.md, How to read), and where the next fetch finds a word. -/

namespace Sys2Proof.Machine

/-- One step of the core. With CPSR.T = 1 nothing is fetched (30_encoding.md R40); a fetch that cannot be made stops
(20_memory.md R33, R34); a word of another class is refused whatever its condition (30_encoding.md R53, D24). -/
def step (s : State) : Host.Outcome State Fault Refusal :=
  if psrThumb s.cpsr then .refused .thumbState
  else
    match fetchWord s with
    | .error f => .fault f
    | .ok w =>
      match decodeWord w with
      | .error why => .refused (.outOfScopeWord why)
      | .ok i => exec i s

/-- The state with the low `nbits` bits of `w` as the word at the pc: program text supplied from outside the machine
(log 5). -/
def State.withFetchWord (s : State) (nbits w : Nat) : State :=
  { s with mem := writeWord s.params.byteOrder s.mem s.pc (BitVec.ofNat 32 (w % 2 ^ nbits)) }

end Sys2Proof.Machine
end

