-- ==== Sys2Proof/Machine/Assembler.lean ====
section
/-! DEFINITION. The assembler of 30_encoding.md R54 and R55 as a function from abstract syntax (a parsed source line)
to an instruction. The characters of a source line are not modelled (log 17). -/

namespace Sys2Proof.Machine

/-- `<shiftname>` of R54; ASL is a synonym of LSL. -/
inductive ShiftName where
  | asl | lsl | lsr | asr | ror
deriving DecidableEq, Repr

/-- `<shift>` of R54: a name with a register or with a constant, or RRX. -/
inductive ShiftText where
  | byRegister (name : ShiftName) (rs : Reg)
  | byConstant (name : ShiftName) (n : Nat)
  | rrx
deriving DecidableEq, Repr

/-- `<Op2>` of R54: a register, a shifted register, or an expression. -/
inductive Op2Text where
  | register (rm : Reg)
  | shifted (rm : Reg) (shift : ShiftText)
  | expression (value : Word)
deriving DecidableEq, Repr

/-- The mnemonics of form 1 (R54). -/
inductive MoveName where
  | mov | mvn
deriving DecidableEq, Repr

/-- The mnemonics of form 2 (R54). -/
inductive TestName where
  | cmp | cmn | teq | tst
deriving DecidableEq, Repr

/-- The mnemonics of form 3 (R54). -/
inductive BinaryName where
  | and | eor | sub | rsb | add | adc | sbc | rsc | orr | bic
deriving DecidableEq, Repr

/-- A source line: the three forms of R54. A condition that is not written is none. A test may be written with an S,
which changes nothing, and with the P suffix (R55 e, f). -/
inductive AsmLine where
  | move (op : MoveName) (cond : Option Cond) (s : Bool) (rd : Reg) (op2 : Op2Text)
  | test (op : TestName) (cond : Option Cond) (s p : Bool) (rn : Reg) (op2 : Op2Text)
  | binary (op : BinaryName) (cond : Option Cond) (s : Bool) (rd rn : Reg) (op2 : Op2Text)
deriving DecidableEq, Repr

/-- Why a line does not assemble. -/
inductive AsmError where
  /-- No rotated 8-bit constant equals the expression (R54, 93_implementation_defined.md U11). -/
  | constantNotRepresentable
  /-- A written shift amount that no encoding of its name spells. DESIGN CHOICE: log 17. -/
  | shiftAmountNotRepresentable
deriving DecidableEq, Repr

/-- The constant with this rotate count that equals a value, if there is one (41_operand2_shifter.md R81). -/
def constantAt (value : Word) (rotate : Nat) : Option ImmOperand :=
  let back := value.rotateLeft (2 * rotate)
  if back.toNat < 256 then some { rotate := BitVec.ofNat 4 rotate, imm8 := back.setWidth 8 } else none

/-- The constant with the smallest rotate count that equals a value. PRESUMED (R55 g, the spec's general knowledge): log 17. -/
def assembleConstant (value : Word) : Option ImmOperand :=
  (List.range 16).findSome? (constantAt value)

/-- The type a shift name stands for (R55 a). -/
def shiftNameType : ShiftName → ShiftType
  | .asl | .lsl => .lsl
  | .lsr => .lsr
  | .asr => .asr
  | .ror => .ror

/-- A shift by a written constant (R55 b, c): LSR, ASR and ROR by 0 become LSL #0, LSR and ASR by 32 are spelt with
amount 0. -/
def assembleConstantShift (ty : ShiftType) (n : Nat) (rm : Reg) : Except AsmError ShiftImmOperand :=
  if n = 0 then .ok { amount := 0#5, ty := .lsl, rm := rm }
  else if n < 32 then .ok { amount := BitVec.ofNat 5 n, ty := ty, rm := rm }
  else if n = 32 ∧ (ty = .lsr ∨ ty = .asr) then .ok { amount := 0#5, ty := ty, rm := rm }
  else .error .shiftAmountNotRepresentable

/-- Operand 2 of a source line (R54, R55). -/
def assembleOp2 : Op2Text → Except AsmError Operand2
  | .register rm => .ok (.regImm { amount := 0#5, ty := .lsl, rm := rm })
  | .shifted rm .rrx => .ok (.regImm { amount := 0#5, ty := .ror, rm := rm })
  | .shifted rm (.byRegister name rs) => .ok (.regReg { rs := rs, ty := shiftNameType name, rm := rm })
  | .shifted rm (.byConstant name n) => (assembleConstantShift (shiftNameType name) n rm).map .regImm
  | .expression value =>
    match assembleConstant value with
    | some o => .ok (.imm o)
    | none => .error .constantNotRepresentable

/-- The opcode of a form 1 mnemonic. -/
def moveOpcode : MoveName → Opcode
  | .mov => .mov
  | .mvn => .mvn

/-- The opcode of a form 2 mnemonic. -/
def testOpcode : TestName → Opcode
  | .cmp => .cmp
  | .cmn => .cmn
  | .teq => .teq
  | .tst => .tst

/-- The opcode of a form 3 mnemonic. -/
def binaryOpcode : BinaryName → Opcode
  | .and => .and
  | .eor => .eor
  | .sub => .sub
  | .rsb => .rsb
  | .add => .add
  | .adc => .adc
  | .sbc => .sbc
  | .rsc => .rsc
  | .orr => .orr
  | .bic => .bic

/-- The instruction of a source line. An omitted condition is AL (R54); an unused register field is written 0000
(R52); the four tests have S = 1 (R55 e) and their P suffix sets Rd = 1111 (R55 f). -/
def assemble : AsmLine → Except AsmError Instr
  | .move op cond s rd op2 =>
    (assembleOp2 op2).map fun o => Fields.instr ⟨moveOpcode op, cond.getD .al, s, .gpr .r0, rd, o⟩
  | .test op cond _ p rn op2 =>
    (assembleOp2 op2).map fun o => Fields.instr ⟨testOpcode op, cond.getD .al, true, rn, if p then .pc else .gpr .r0, o⟩
  | .binary op cond s rd rn op2 =>
    (assembleOp2 op2).map fun o => Fields.instr ⟨binaryOpcode op, cond.getD .al, s, rn, rd, o⟩

end Sys2Proof.Machine
end

