-- ==== Sys2Proof/Machine/Timing.lean ====
section
/-! DEFINITION. The cycle counts of 70_reset_and_hazards.md R154 (Table 8). Timing only: no state holds a clock and no
step reads this (D27, log 16). -/

namespace Sys2Proof.Machine

/-- How many sequential, non-sequential and internal cycles (70_reset_and_hazards.md R155). -/
structure Cycles where
  s : Nat
  n : Nat
  i : Nat
deriving DecidableEq, Repr

/-- An instruction with a register-specified shift (70_reset_and_hazards.md R154). -/
def hasRegisterShift (i : Instr) : Bool :=
  match i.fields.op2 with
  | .imm _ | .regImm _ => false
  | .regReg _ => true

/-- An instruction that writes R15 when it executes: Rd = R15, and not a test (40_data_processing_common.md R64, R70). -/
def writesPc (i : Instr) : Bool := !i.fields.op.isTest && i.fields.rd == .pc

/-- Table 8 for an instruction that executes: 1S, with 1I more for a register-specified shift and 1S + 1N more for
writing R15 (70_reset_and_hazards.md R154). -/
def executedCycles (i : Instr) : Cycles :=
  { s := 1 + (writesPc i).toNat, n := (writesPc i).toNat, i := (hasRegisterShift i).toNat }

/-- The cycles of an instruction under the flags it finds. That a failed condition takes 1S is PRESUMED (the spec's
general knowledge, R154, log 16). -/
def instrCycles (i : Instr) (f : Flags) : Cycles :=
  if condHolds i.cond f then executedCycles i else { s := 1, n := 0, i := 0 }

end Sys2Proof.Machine
end

