-- ==== Sys2Proof/Safety.lean ====
section
/-! DEFINITION. What a legal state is (the INITIAL_STATE of 70_reset_and_hazards.md R150), and what a run and its end
are (92_eei_decisions.md D26). -/

namespace Sys2Proof.Machine

/-- What every initial state must be and every step keeps: pc a multiple of 4, M one of the seven modes, T = 0, and
the program text in its canonical form (70_reset_and_hazards.md R150). -/
def State.legal (s : State) : Bool :=
  aligned s.pc && s.mode.isSome && !psrThumb s.cpsr && Memory.wf s.mem

/-- How a run ends. -/
inductive RunEnd where
  /-- The pc is HALT_ADDR before a fetch (D26). The chip does not stop there. -/
  | halted (s : State)
  /-- The steps allowed are used up. -/
  | outOfSteps (s : State)
  /-- A step stopped with a fault. -/
  | fault (r : Fault)
  /-- A step was refused. -/
  | refused (r : Refusal)
deriving DecidableEq, Repr

/-- A run of at most `k` steps to HALT_ADDR (00_scope.md R4, D26, log 15). -/
def runTo (haltAddr : Word) (k : Nat) (s : State) : RunEnd :=
  if s.pc = haltAddr then .halted s
  else
    match k with
    | 0 => .outOfSteps s
    | k + 1 =>
      match step s with
      | .next s' => runTo haltAddr k s'
      | .fault r => .fault r
      | .refused r => .refused r

/-- A safe run: it comes to HALT_ADDR within `k` steps, with no fault and no refusal on the way. -/
def SafeRun (haltAddr : Word) (k : Nat) (s : State) : Prop := ∃ t, runTo haltAddr k s = .halted t

/-- The program counter software relies on being a word address, the mode legal: a state from which a return from an
exception completes (70_reset_and_hazards.md R151). -/
def ReadyToReturn (s : State) (m : Mode) (target saved : Word) : Prop :=
  s.mode = some m ∧ s.spsr.get m = some saved ∧ (psrMode saved).isSome ∧ psrThumb saved = false ∧ aligned target

end Sys2Proof.Machine
end

