-- ==== Sys2Proof/Certificates/Slice0/Obligations.lean ====
section
/-! DEFINITION. The statements for the provers. Names under `Sys2Proof.Spec` say a rule of spec/ in words of their own,
so that a statement compares the machine with the rule and not with itself. -/

open Sys2Proof Sys2Proof.Machine

namespace Sys2Proof.Spec

/-- The machine is in mode `m` and the condition holds (40_data_processing_common.md R60). -/
def Runs (s : State) (m : Mode) (c : Cond) : Prop := s.mode = some m ∧ condHolds c s.flags = true

/-- A property of an instruction in its three operand-2 forms, Rs = R15 apart (10_state.md R12; what happens then,
`RsInPcFaultsWhateverTheCondition` says). -/
def EachForm {α : Type} (imm : ImmOperand → α) (regImm : ShiftImmOperand → α) (regReg : ShiftRegOperand → α)
    (P : Operand2 → α → Prop) : Prop :=
  (∀ o, P (.imm o) (imm o)) ∧ (∀ o, P (.regImm o) (regImm o)) ∧ (∀ o, o.rs ≠ .pc → P (.regReg o) (regReg o))

/-- What a copy of the mode's SPSR to CPSR answers (40_data_processing_common.md R69, R70, R74): `a` is the answer and
`done saved` the state when the copy is made. -/
def CopiesSpsr (a : Answer) (s : State) (m : Mode) (done : Word → Answer) : Prop :=
  (m = .sys → a = .fault .noSpsr) ∧
  ∀ saved, s.spsr.get m = some saved →
    (psrMode saved = none → a = .fault .illegalMode) ∧
    (psrMode saved ≠ none → psrThumb saved = true → a = .refused .thumbState) ∧
    (psrMode saved ≠ none → psrThumb saved = false → a = done saved)

/-- What an instruction answers that writes the result `r`, with `f` for the flags of S = 1, for every Rd and S
(40_data_processing_common.md R64, R67, R68, R69, R71, R74): `row sBit rd` is the instruction. The whole next state is
given, so everything it does not name is unchanged; and it reads the result back from Rd and every other register of
the mode as before. -/
def WritesResult (row : Bool → Reg → Instr) (s : State) (m : Mode) (r : Word) (f : Flags) : Prop :=
  (∀ g, exec (row false (.gpr g)) s = .next { s with regs := s.regs.set (bank m g) r, pc := s.pc + 4#32 }) ∧
  (∀ g, exec (row true (.gpr g)) s =
    .next { s with regs := s.regs.set (bank m g) r, cpsr := psrWithFlags s.cpsr f, pc := s.pc + 4#32 }) ∧
  (∀ sBit g t, exec (row sBit (.gpr g)) s = .next t →
    t.readReg m g = r ∧ ∀ h, h ≠ g → t.readReg m h = s.readReg m h) ∧
  (r.extractLsb' 0 2 = 0#2 → exec (row false .pc) s = .next { s with pc := r }) ∧
  (r.extractLsb' 0 2 ≠ 0#2 → exec (row false .pc) s = .fault .misalignedPcWrite) ∧
  (m = .usr → exec (row true .pc) s = .fault .returnInUserMode) ∧
  (m ≠ .usr → CopiesSpsr (exec (row true .pc) s) s m fun saved =>
    if r.extractLsb' 0 2 = 0#2 then .next { s with cpsr := saved, pc := r } else .fault .misalignedPcWrite)

/-- What a test answers when Rd is not 1111: the flags and the pc change and nothing else does
(40_data_processing_common.md R64, R71). -/
def TestsOnly (row : Reg → Instr) (s : State) (f : Flags) : Prop :=
  ∀ g, exec (row (.gpr g)) s = .next { s with cpsr := psrWithFlags s.cpsr f, pc := s.pc + 4#32 }

/-- The flags of the logical class (40_data_processing_common.md R65): C from the shifter, V kept. -/
def logicalFlags (s : State) (m : Mode) (o : Operand2) (r : Word) : Flags :=
  { n := r.msb, z := r == 0#32, c := (shifter s m o).carry, v := s.flags.v }

/-- The flags of the arithmetic class (40_data_processing_common.md R66), given the carry and the exact integer result:
V says that the exact result is not the 32-bit one. -/
def arithmeticFlags (r : Word) (carry : Bool) (exact : Int) : Flags :=
  { n := r.msb, z := r == 0#32, c := carry, v := exact != r.toInt }

/-- ROR32 of 00_scope.md section 5. -/
def ror32 (v : Word) (n : Nat) : Word := if n = 0 then v else (v >>> n) ||| (v <<< (32 - n))

/-- Rm_val of 41_operand2_shifter.md in an instruction with a register-specified amount. -/
def rmValue (s : State) (m : Mode) (o : ShiftRegOperand) : Word := readOperandReg s m (.regReg o) o.rm

/-- The amount of an instruction with a register-specified shift (41_operand2_shifter.md R91). -/
def amountOf (s : State) (m : Mode) (o : ShiftRegOperand) : Nat :=
  rsAmount s.params.rsAmountByte (readOperandReg s m (.regReg o) o.rs)

/-- The results of the logical class (42_logical.md R111 to R118); none for an arithmetic opcode. -/
def logicalResult (op : Opcode) (a b : Word) : Option Word :=
  match op with
  | .and | .tst => some (a &&& b)
  | .eor | .teq => some (a ^^^ b)
  | .orr => some (a ||| b)
  | .mov => some b
  | .bic => some (a &&& ~~~b)
  | .mvn => some (~~~b)
  | .sub | .rsb | .add | .adc | .sbc | .rsc | .cmp | .cmn => none

/-- What the arithmetic class gives the adder of 43_arithmetic.md R120 (R121 to R128): the two words and the carry in;
none for a logical opcode. -/
def adderInputs (op : Opcode) (a b : Word) (c : Bool) : Option (Word × Word × Bool) :=
  match op with
  | .sub | .cmp => some (a, ~~~b, true)
  | .rsb => some (b, ~~~a, true)
  | .add | .cmn => some (a, b, false)
  | .adc => some (a, b, c)
  | .sbc => some (a, ~~~b, c)
  | .rsc => some (b, ~~~a, c)
  | .and | .eor | .tst | .teq | .orr | .mov | .bic | .mvn => none

/-- The three values of the `format` column of spec/opcode_table.json. -/
inductive Form where
  | imm | regImm | regReg
deriving DecidableEq, Repr

/-- The form of an operand 2. -/
def formOf : Operand2 → Form
  | .imm _ => .imm
  | .regImm _ => .regImm
  | .regReg _ => .regReg

/-- A row of spec/opcode_table.json: mnemonic, format, mask and match. -/
structure TableRow where
  op : Opcode
  form : Form
  mask : Word
  value : Word
deriving DecidableEq, Repr

/-- The immediate rows of spec/opcode_table.json, as they stand there. -/
def immRows : List TableRow := [
  ⟨.and, .imm, 0x0FE00000#32, 0x02000000#32⟩,
  ⟨.eor, .imm, 0x0FE00000#32, 0x02200000#32⟩,
  ⟨.sub, .imm, 0x0FE00000#32, 0x02400000#32⟩,
  ⟨.rsb, .imm, 0x0FE00000#32, 0x02600000#32⟩,
  ⟨.add, .imm, 0x0FE00000#32, 0x02800000#32⟩,
  ⟨.adc, .imm, 0x0FE00000#32, 0x02A00000#32⟩,
  ⟨.sbc, .imm, 0x0FE00000#32, 0x02C00000#32⟩,
  ⟨.rsc, .imm, 0x0FE00000#32, 0x02E00000#32⟩,
  ⟨.tst, .imm, 0x0FF00000#32, 0x03100000#32⟩,
  ⟨.teq, .imm, 0x0FF00000#32, 0x03300000#32⟩,
  ⟨.cmp, .imm, 0x0FF00000#32, 0x03500000#32⟩,
  ⟨.cmn, .imm, 0x0FF00000#32, 0x03700000#32⟩,
  ⟨.orr, .imm, 0x0FE00000#32, 0x03800000#32⟩,
  ⟨.mov, .imm, 0x0FE00000#32, 0x03A00000#32⟩,
  ⟨.bic, .imm, 0x0FE00000#32, 0x03C00000#32⟩,
  ⟨.mvn, .imm, 0x0FE00000#32, 0x03E00000#32⟩]

/-- The REG_IMM rows of spec/opcode_table.json, as they stand there. -/
def regImmRows : List TableRow := [
  ⟨.and, .regImm, 0x0FE00010#32, 0x00000000#32⟩,
  ⟨.eor, .regImm, 0x0FE00010#32, 0x00200000#32⟩,
  ⟨.sub, .regImm, 0x0FE00010#32, 0x00400000#32⟩,
  ⟨.rsb, .regImm, 0x0FE00010#32, 0x00600000#32⟩,
  ⟨.add, .regImm, 0x0FE00010#32, 0x00800000#32⟩,
  ⟨.adc, .regImm, 0x0FE00010#32, 0x00A00000#32⟩,
  ⟨.sbc, .regImm, 0x0FE00010#32, 0x00C00000#32⟩,
  ⟨.rsc, .regImm, 0x0FE00010#32, 0x00E00000#32⟩,
  ⟨.tst, .regImm, 0x0FF00010#32, 0x01100000#32⟩,
  ⟨.teq, .regImm, 0x0FF00010#32, 0x01300000#32⟩,
  ⟨.cmp, .regImm, 0x0FF00010#32, 0x01500000#32⟩,
  ⟨.cmn, .regImm, 0x0FF00010#32, 0x01700000#32⟩,
  ⟨.orr, .regImm, 0x0FE00010#32, 0x01800000#32⟩,
  ⟨.mov, .regImm, 0x0FE00010#32, 0x01A00000#32⟩,
  ⟨.bic, .regImm, 0x0FE00010#32, 0x01C00000#32⟩,
  ⟨.mvn, .regImm, 0x0FE00010#32, 0x01E00000#32⟩]

/-- The REG_REG rows of spec/opcode_table.json, as they stand there. -/
def regRegRows : List TableRow := [
  ⟨.and, .regReg, 0x0FE00090#32, 0x00000010#32⟩,
  ⟨.eor, .regReg, 0x0FE00090#32, 0x00200010#32⟩,
  ⟨.sub, .regReg, 0x0FE00090#32, 0x00400010#32⟩,
  ⟨.rsb, .regReg, 0x0FE00090#32, 0x00600010#32⟩,
  ⟨.add, .regReg, 0x0FE00090#32, 0x00800010#32⟩,
  ⟨.adc, .regReg, 0x0FE00090#32, 0x00A00010#32⟩,
  ⟨.sbc, .regReg, 0x0FE00090#32, 0x00C00010#32⟩,
  ⟨.rsc, .regReg, 0x0FE00090#32, 0x00E00010#32⟩,
  ⟨.tst, .regReg, 0x0FF00090#32, 0x01100010#32⟩,
  ⟨.teq, .regReg, 0x0FF00090#32, 0x01300010#32⟩,
  ⟨.cmp, .regReg, 0x0FF00090#32, 0x01500010#32⟩,
  ⟨.cmn, .regReg, 0x0FF00090#32, 0x01700010#32⟩,
  ⟨.orr, .regReg, 0x0FE00090#32, 0x01800010#32⟩,
  ⟨.mov, .regReg, 0x0FE00090#32, 0x01A00010#32⟩,
  ⟨.bic, .regReg, 0x0FE00090#32, 0x01C00010#32⟩,
  ⟨.mvn, .regReg, 0x0FE00090#32, 0x01E00010#32⟩]

/-- The 48 rows of spec/opcode_table.json. -/
def opcodeTable : List TableRow := immRows ++ regImmRows ++ regRegRows

/-- Two states a User-mode program cannot tell apart: the same pc, CPSR, memory and parameters, and the same copies
of R0 to R14 that User mode sees. The SPSRs and the other copies may differ. -/
def SameForUser (s s' : State) : Prop :=
  s.pc = s'.pc ∧ s.cpsr = s'.cpsr ∧ s.mem = s'.mem ∧ s.params = s'.params ∧ ∀ g, s.readReg .usr g = s'.readReg .usr g

/-- Two answers that agree: related next states, or the same stop. -/
def SameAnswer (R : State → State → Prop) (a b : Answer) : Prop :=
  match a, b with
  | .next t, .next t' => R t t'
  | .fault f, .fault f' => f = f'
  | .refused f, .refused f' => f = f'
  | _, _ => False

/-- The table of 60_exceptions.md R141, reset apart: the vector address and the mode entered. -/
def vectorAndMode : Exception → Word × Mode
  | .undefinedInstruction => (0x00000004#32, .und)
  | .softwareInterrupt => (0x00000008#32, .svc)
  | .prefetchAbort => (0x0000000C#32, .abt)
  | .dataAbort => (0x00000010#32, .abt)
  | .irq => (0x00000018#32, .irq)
  | .fiq => (0x0000001C#32, .fiq)

/-- The offset of 60_exceptions.md R144, 0 or 4, that R14 gets beyond the address of the next instruction (log 21). -/
def savedOffset : Exception → Word
  | .softwareInterrupt | .undefinedInstruction | .prefetchAbort => 0#32
  | .irq | .fiq | .dataAbort => 4#32

/-- The copy of a general register that a mode sees, by the words of 10_state.md R13 (general knowledge, log 13): R0 to
R7 have one; R8 to R12 two, one for FIQ; R13 and R14 six, one for User with System. -/
def copySeen (f : RegFile) : Mode → Gpr → Word
  | _, .r0 => f.r0 | _, .r1 => f.r1 | _, .r2 => f.r2 | _, .r3 => f.r3
  | _, .r4 => f.r4 | _, .r5 => f.r5 | _, .r6 => f.r6 | _, .r7 => f.r7
  | .fiq, .r8 => f.r8fiq | .fiq, .r9 => f.r9fiq | .fiq, .r10 => f.r10fiq | .fiq, .r11 => f.r11fiq | .fiq, .r12 => f.r12fiq
  | _, .r8 => f.r8 | _, .r9 => f.r9 | _, .r10 => f.r10 | _, .r11 => f.r11 | _, .r12 => f.r12
  | .usr, .r13 => f.r13 | .sys, .r13 => f.r13 | .usr, .r14 => f.r14 | .sys, .r14 => f.r14
  | .fiq, .r13 => f.r13fiq | .fiq, .r14 => f.r14fiq
  | .irq, .r13 => f.r13irq | .irq, .r14 => f.r14irq
  | .svc, .r13 => f.r13svc | .svc, .r14 => f.r14svc
  | .abt, .r13 => f.r13abt | .abt, .r14 => f.r14abt
  | .und, .r13 => f.r13und | .und, .r14 => f.r14und

/-- The register file with that copy replaced and no other (10_state.md R13, log 13). -/
def copyReplaced (f : RegFile) (v : Word) : Mode → Gpr → RegFile
  | _, .r0 => { f with r0 := v } | _, .r1 => { f with r1 := v } | _, .r2 => { f with r2 := v }
  | _, .r3 => { f with r3 := v } | _, .r4 => { f with r4 := v } | _, .r5 => { f with r5 := v }
  | _, .r6 => { f with r6 := v } | _, .r7 => { f with r7 := v }
  | .fiq, .r8 => { f with r8fiq := v } | .fiq, .r9 => { f with r9fiq := v } | .fiq, .r10 => { f with r10fiq := v }
  | .fiq, .r11 => { f with r11fiq := v } | .fiq, .r12 => { f with r12fiq := v }
  | _, .r8 => { f with r8 := v } | _, .r9 => { f with r9 := v } | _, .r10 => { f with r10 := v }
  | _, .r11 => { f with r11 := v } | _, .r12 => { f with r12 := v }
  | .usr, .r13 => { f with r13 := v } | .sys, .r13 => { f with r13 := v }
  | .usr, .r14 => { f with r14 := v } | .sys, .r14 => { f with r14 := v }
  | .fiq, .r13 => { f with r13fiq := v } | .fiq, .r14 => { f with r14fiq := v }
  | .irq, .r13 => { f with r13irq := v } | .irq, .r14 => { f with r14irq := v }
  | .svc, .r13 => { f with r13svc := v } | .svc, .r14 => { f with r14svc := v }
  | .abt, .r13 => { f with r13abt := v } | .abt, .r14 => { f with r14abt := v }
  | .und, .r13 => { f with r13und := v } | .und, .r14 => { f with r14und := v }

/-- The opcode of a two-operand line without Rd (30_encoding.md R46, R54). -/
def opcodeOfTest : TestName → Opcode
  | .cmp => .cmp | .cmn => .cmn | .teq => .teq | .tst => .tst

/-- The opcode of a one-operand line (30_encoding.md R46, R54). -/
def opcodeOfMove : MoveName → Opcode
  | .mov => .mov | .mvn => .mvn

/-- The opcode of a two-operand line with Rd (30_encoding.md R46, R54). -/
def opcodeOfBinary : BinaryName → Opcode
  | .and => .and | .eor => .eor | .sub => .sub | .rsb => .rsb | .add => .add
  | .adc => .adc | .sbc => .sbc | .rsc => .rsc | .orr => .orr | .bic => .bic

/-- The return instruction of an exception (60_exceptions.md R145): MOVS PC,R14, SUBS PC,R14,#4 or SUBS PC,R14,#8. -/
def returnInstr : Exception → Instr
  | .softwareInterrupt | .undefinedInstruction =>
    .movRegImm .al true (.gpr .r0) .pc { amount := 0#5, ty := .lsl, rm := .gpr .r14 }
  | .irq | .fiq | .prefetchAbort => .subImm .al true (.gpr .r14) .pc { rotate := 0#4, imm8 := 4#8 }
  | .dataAbort => .subImm .al true (.gpr .r14) .pc { rotate := 0#4, imm8 := 8#8 }

/-- Where the interrupted program goes on, `next` being the address of the instruction after the one that was
interrupted: there, or, after an abort, at the aborted instruction itself. -/
def resumeAt (e : Exception) (next : Word) : Word :=
  match e with
  | .softwareInterrupt | .undefinedInstruction | .irq | .fiq => next
  | .prefetchAbort | .dataAbort => next - 4#32

end Sys2Proof.Spec

open Sys2Proof.Spec

/-- For every well-formed instruction of the 48 rows, every operand at every value its encoding admits, both byte orders
and any bytes after it: decode reads from the four bytes of its word that instruction, and leaves the bytes after it.
(30_encoding.md R41 to R46, 30_encoding.md R53.) -/
def Obligations.DecodeEncodeAgree : Prop :=
  ∀ (i : Instr) (ord : ByteOrder) (rest : List Byte), i.wellFormed = true →
    decode ord (bytesOfWord ord (encode i) ++ rest) = .ok (i, rest)

/-- For every 32-bit word: if the decoder reads an instruction from it, the encoder writes that same word for the
instruction. So no bit of an accepted word is dropped, not even a bit of a field the operation ignores.
(30_encoding.md R41 to R46, 30_encoding.md R53.) -/
def Obligations.EncodeDecodeAgree : Prop :=
  ∀ (w : Word) (i : Instr), decodeWord w = .ok i → encode i = w

/-- A word decodes to an instruction exactly when its top four bits are not 1111 and it matches the mask and match value
of some row of spec/opcode_table.json (copied row by row); and the instruction has the mnemonic and the operand-2 form
of every row the word matches. (That cond 1111 and the test words with S = 0 are refused is the spec's decisions D5
and D13, the model's choice in log 11; the bit positions are general knowledge, log 12.) (30_encoding.md R46,
30_encoding.md R50, 30_encoding.md R51, 30_encoding.md R53, 92_eei_decisions.md D5, D13.) -/
def Obligations.AcceptedWordsAreTheTableRows : Prop :=
  ∀ w : Word,
    ((∃ i, decodeWord w = .ok i) ↔ (w.extractLsb' 28 4 ≠ 0b1111#4 ∧ ∃ r ∈ opcodeTable, w &&& r.mask = r.value)) ∧
    ∀ i, decodeWord w = .ok i → ∀ r ∈ opcodeTable, w &&& r.mask = r.value →
      i.fields.op = r.op ∧ formOf i.fields.op2 = r.form

/-- The words of ADDEQ R2,R4,R5, TEQS R4,#3, SUB R4,R5,R7,LSR R2, MOV PC,R14 and MOVS PC,R14, as 30_encoding.md section 5
writes them, decode to these instructions. So do MOV<cond> R0,#1 for each of the fifteen conditions, MOV Rd,R0 for
each of the sixteen values of Rd, and MOVS R0,R1 shifted by 5 with each of the four types. (Bit positions and all
codes but that of EQ are general knowledge, log 12.) (30_encoding.md section 5, 30_encoding.md R41, R45, R47,
95_test_vectors.md part 1, V-CD and V-SH1.) -/
def Obligations.ExampleWordsDecode : Prop :=
  decodeWord 0x00842005#32 = .ok (.addRegImm .eq false (.gpr .r4) (.gpr .r2) ⟨0#5, .lsl, .gpr .r5⟩) ∧
  decodeWord 0xE3340003#32 = .ok (.teqImm .al (.gpr .r4) (.gpr .r0) ⟨0#4, 3#8⟩) ∧
  decodeWord 0xE0454237#32 = .ok (.subRegReg .al false (.gpr .r5) (.gpr .r4) ⟨.gpr .r2, .lsr, .gpr .r7⟩) ∧
  decodeWord 0xE1A0F00E#32 = .ok (.movRegImm .al false (.gpr .r0) .pc ⟨0#5, .lsl, .gpr .r14⟩) ∧
  decodeWord 0xE1B0F00E#32 = .ok (.movRegImm .al true (.gpr .r0) .pc ⟨0#5, .lsl, .gpr .r14⟩) ∧
  (∀ p ∈ [(0b0000#4, Cond.eq), (0b0001#4, .ne), (0b0010#4, .cs), (0b0011#4, .cc), (0b0100#4, .mi), (0b0101#4, .pl),
      (0b0110#4, .vs), (0b0111#4, .vc), (0b1000#4, .hi), (0b1001#4, .ls), (0b1010#4, .ge), (0b1011#4, .lt),
      (0b1100#4, .gt), (0b1101#4, .le), (0b1110#4, .al)],
    decodeWord (p.1 ++ 0x3A00001#28) = .ok (.movImm p.2 false (.gpr .r0) (.gpr .r0) ⟨0#4, 1#8⟩)) ∧
  (∀ p ∈ [(0#4, Reg.gpr .r0), (1#4, .gpr .r1), (2#4, .gpr .r2), (3#4, .gpr .r3), (4#4, .gpr .r4), (5#4, .gpr .r5),
      (6#4, .gpr .r6), (7#4, .gpr .r7), (8#4, .gpr .r8), (9#4, .gpr .r9), (10#4, .gpr .r10), (11#4, .gpr .r11),
      (12#4, .gpr .r12), (13#4, .gpr .r13), (14#4, .gpr .r14), (15#4, .pc)],
    decodeWord (0xE1A0#16 ++ p.1 ++ 0x000#12) = .ok (.movRegImm .al false (.gpr .r0) p.2 ⟨0#5, .lsl, .gpr .r0⟩)) ∧
  decodeWord 0xE1B00281#32 = .ok (.movRegImm .al true (.gpr .r0) (.gpr .r0) ⟨5#5, .lsl, .gpr .r1⟩) ∧
  decodeWord 0xE1B002A1#32 = .ok (.movRegImm .al true (.gpr .r0) (.gpr .r0) ⟨5#5, .lsr, .gpr .r1⟩) ∧
  decodeWord 0xE1B002C1#32 = .ok (.movRegImm .al true (.gpr .r0) (.gpr .r0) ⟨5#5, .asr, .gpr .r1⟩) ∧
  decodeWord 0xE1B002E1#32 = .ok (.movRegImm .al true (.gpr .r0) (.gpr .r0) ⟨5#5, .ror, .gpr .r1⟩)

/-- In ARM state, when the fetch at the pc gives a word and the word decodes to a well-formed instruction i, step is exec
of i on the same state: the machine does nothing before or after exec. (20_memory.md R31, 30_encoding.md R53, INDEX.md
How to read.) -/
def Obligations.StepRunsDecodedInstruction : Prop :=
  ∀ (s : State) (w : Word) (i : Instr), psrThumb s.cpsr = false → fetchWord s = .ok w → decodeWord w = .ok i →
    i.wellFormed = true → step s = exec i s

/-- At a word-aligned pc with the four bytes b0 to b3 of program text at pc, pc+1, pc+2 and pc+3: little-endian, the
word's bits 7 to 0 are b0 and its bits 31 to 24 are b3; big-endian, its bits 31 to 24 are b0 and its bits 7 to 0 are
b3. (Which order is in force at reset is the model's choice, logs 4 and 5.) (20_memory.md R31, 00_scope.md R4.) -/
def Obligations.FetchReadsFourBytesInOrder : Prop :=
  ∀ (s : State) (b0 b1 b2 b3 : Byte), s.pc.extractLsb' 0 2 = 0#2 →
    readByte s.mem s.pc.toNat = some b0 → readByte s.mem (s.pc + 1#32).toNat = some b1 →
    readByte s.mem (s.pc + 2#32).toNat = some b2 → readByte s.mem (s.pc + 3#32).toNat = some b3 →
    (s.params.byteOrder = .little → fetchWord s = .ok (b3 ++ b2 ++ b1 ++ b0)) ∧
    (s.params.byteOrder = .big → fetchWord s = .ok (b0 ++ b1 ++ b2 ++ b3))

/-- In ARM state at a word-aligned pc, if the program text does not supply one of the four bytes at the pc, step stops
with fetchOutsideProgramText (the spec's decision D21, log 5). (20_memory.md R34, 92_eei_decisions.md D21.) -/
def Obligations.StepIsStuckOutsideProgramText : Prop :=
  ∀ (s : State) (k : Fin 4), psrThumb s.cpsr = false → s.pc.extractLsb' 0 2 = 0#2 →
    readByte s.mem (s.pc + BitVec.ofNat 32 k.val).toNat = none → step s = .fault .fetchOutsideProgramText

/-- With CPSR.T = 1 step refuses with thumbState. In ARM state, for a fetched word w, in the order of 30_encoding.md R53:
cond 1111; bits 27:26 not 00; bits 25, 4, 7 = 0, 1, 1; bits 24:23 = 10 with bit 20 = 0: step refuses with the name of
the first that applies (logs 11 and 12). (30_encoding.md R49, 30_encoding.md R50, 30_encoding.md R51, 30_encoding.md
R53, 30_encoding.md R40.) -/
def Obligations.StepRefusesWordsOutsideTheScope : Prop :=
  (∀ s : State, psrThumb s.cpsr = true → step s = .refused .thumbState) ∧
  ∀ (s : State) (w : Word), psrThumb s.cpsr = false → fetchWord s = .ok w →
    if w.extractLsb' 28 4 = 0b1111#4 then step s = .refused (.outOfScopeWord .cond1111)
    else if w.extractLsb' 26 2 ≠ 0b00#2 then step s = .refused (.outOfScopeWord .notDataProcessing)
    else if w.extractLsb' 25 1 = 0b0#1 ∧ w.extractLsb' 4 1 = 0b1#1 ∧ w.extractLsb' 7 1 = 0b1#1 then
      step s = .refused (.outOfScopeWord .multiplyOrUnknown)
    else if w.extractLsb' 23 2 = 0b10#2 ∧ w.extractLsb' 20 1 = 0b0#1 then
      step s = .refused (.outOfScopeWord .testOpcodeWithSZero)
    else ∃ i, decodeWord w = .ok i ∧ step s = exec i s

/-- EQ holds iff Z = 1, NE iff Z = 0, CS iff C = 1, CC iff C = 0, MI iff N = 1, PL iff N = 0, VS iff V = 1, VC iff V = 0,
HI iff C = 1 and Z = 0, LS iff C = 0 or Z = 1, GE iff N = V, LT iff N is not V, GT iff Z = 0 and N = V, LE iff Z = 1
or N is not V, AL always. Only the EQ row is the source's; the rest is the spec's general knowledge (log 12).
(30_encoding.md R47, 40_data_processing_common.md R60.) -/
def Obligations.ConditionTable : Prop :=
  ∀ f : Flags,
    (condHolds .eq f = true ↔ f.z = true) ∧ (condHolds .ne f = true ↔ f.z = false) ∧
    (condHolds .cs f = true ↔ f.c = true) ∧ (condHolds .cc f = true ↔ f.c = false) ∧
    (condHolds .mi f = true ↔ f.n = true) ∧ (condHolds .pl f = true ↔ f.n = false) ∧
    (condHolds .vs f = true ↔ f.v = true) ∧ (condHolds .vc f = true ↔ f.v = false) ∧
    (condHolds .hi f = true ↔ f.c = true ∧ f.z = false) ∧ (condHolds .ls f = true ↔ f.c = false ∨ f.z = true) ∧
    (condHolds .ge f = true ↔ f.n = f.v) ∧ (condHolds .lt f = true ↔ f.n ≠ f.v) ∧
    (condHolds .gt f = true ↔ f.z = false ∧ f.n = f.v) ∧ (condHolds .le f = true ↔ f.z = true ∨ f.n ≠ f.v) ∧
    condHolds .al f = true

/-- For every well-formed instruction of the 48 rows, in any legal mode: when its condition does not hold, exec answers
the next state that is the old one with pc + 4 modulo 2^32 (the spec's decision D12, log 20).
(40_data_processing_common.md R60, 40_data_processing_common.md R71, 92_eei_decisions.md D12.) -/
def Obligations.FailedConditionOnlyAdvancesPc : Prop :=
  ∀ (i : Instr) (s : State) (m : Mode), i.wellFormed = true → s.mode = some m → condHolds i.cond s.flags = false →
    exec i s = .next { s with pc := s.pc + 4#32 }

/-- Every instruction with a register-specified shift whose Rs is R15 stops with shiftAmountInPc in every state, whether
or not its condition holds (the spec's decisions D24 and D25, log 10); and these are exactly the ill-formed
instructions. (10_state.md R12, 30_encoding.md R53, 92_eei_decisions.md D24, D25.) -/
def Obligations.RsInPcFaultsWhateverTheCondition : Prop :=
  ∀ (i : Instr) (s : State),
    (i.wellFormed = false ↔ ∃ o, i.fields.op2 = .regReg o ∧ o.rs = .pc) ∧
    (i.wellFormed = false → exec i s = .fault .shiftAmountInPc)

/-- An operand register other than R15 reads the current mode's copy; R15 reads pc + 8 with an immediate operand or a
shift amount in the instruction, pc + 12 with a shift amount in a register, modulo 2^32. (That the immediate form
takes 8 is the spec's derivation; which copy a mode sees is general knowledge, log 13, and stands in
EachModeSeesItsCopies.) (40_data_processing_common.md R61, 70_reset_and_hazards.md R152.) -/
def Obligations.PcReadsAhead : Prop :=
  ∀ (s : State) (m : Mode) (i : ImmOperand) (p : ShiftImmOperand) (r : ShiftRegOperand) (o : Operand2) (g : Gpr),
    readOperandReg s m (.imm i) .pc = s.pc + 8#32 ∧ readOperandReg s m (.regImm p) .pc = s.pc + 8#32 ∧
    readOperandReg s m (.regReg r) .pc = s.pc + 12#32 ∧ readOperandReg s m o (.gpr g) = s.regs.get (bank m g)

/-- The value is ROR32(zext(imm8), 2 * rotate); the carry-out is C for rotate 0, else bit 31 of the value (the spec's
decisions D7 and D8, log 19); and for every bit position k there is an immediate operand whose value is 2^k.
(41_operand2_shifter.md R81, 41_operand2_shifter.md R82, 92_eei_decisions.md D7, D8.) -/
def Obligations.ImmediateOperandRotates : Prop :=
  (∀ (o : ImmOperand) (s : State) (m : Mode),
    (shifter s m (.imm o)).value = ror32 (o.imm8.setWidth 32) (2 * o.rotate.toNat) ∧
    (o.rotate = 0#4 → (shifter s m (.imm o)).carry = s.flags.c) ∧
    (o.rotate ≠ 0#4 → (shifter s m (.imm o)).carry = (ror32 (o.imm8.setWidth 32) (2 * o.rotate.toNat)).getLsbD 31)) ∧
  ∀ k, k < 32 → ∃ o : ImmOperand, ∀ (s : State) (m : Mode), (shifter s m (.imm o)).value = 1#32 <<< k

/-- With shift type LSL and amount 0 in the instruction, operand 2 is the value of Rm and the shifter's carry-out is the C
flag before the instruction. (R84.) -/
def Obligations.LslByZeroPassesRmThrough : Prop :=
  ∀ (s : State) (m : Mode) (rm : Reg),
    shifter s m (.regImm ⟨0#5, .lsl, rm⟩) = ⟨readOperandReg s m (.regImm ⟨0#5, .lsl, rm⟩) rm, s.flags.c⟩

/-- With shift type ASR and amount 0 in the instruction, operand 2 is 0xFFFFFFFF when bit 31 of Rm is 1 and 0 when it is
0, and the carry-out is bit 31 of Rm. (R88.) -/
def Obligations.AsrByZeroFillsWithSign : Prop :=
  ∀ (s : State) (m : Mode) (rm : Reg),
    let v := readOperandReg s m (.regImm ⟨0#5, .asr, rm⟩) rm
    shifter s m (.regImm ⟨0#5, .asr, rm⟩) = ⟨if v.getLsbD 31 then 0xFFFFFFFF#32 else 0x00000000#32, v.getLsbD 31⟩

/-- With LSR and amount 0, operand 2 is 0 and the carry-out is bit 31 of Rm. With ROR and amount 0, bit 31 of operand 2 is
the old C flag, bit i is bit i + 1 of Rm for i from 0 to 30, and the carry-out is bit 0 of Rm. (Both carry-outs are
the spec's derivations.) (41_operand2_shifter.md R86, 41_operand2_shifter.md R90.) -/
def Obligations.LsrAndRorByZeroMeanLsr32AndRrx : Prop :=
  ∀ (s : State) (m : Mode) (rm : Reg),
    shifter s m (.regImm ⟨0#5, .lsr, rm⟩) = ⟨0#32, (readOperandReg s m (.regImm ⟨0#5, .lsr, rm⟩) rm).getLsbD 31⟩ ∧
    let v := readOperandReg s m (.regImm ⟨0#5, .ror, rm⟩) rm
    let out := shifter s m (.regImm ⟨0#5, .ror, rm⟩)
    out.value.getLsbD 31 = s.flags.c ∧ (∀ i, i < 31 → out.value.getLsbD i = v.getLsbD (i + 1)) ∧
    out.carry = v.getLsbD 0

/-- For an amount n from 1 to 31 in the instruction and each bit i of operand 2: LSL gives 0 below n and bit i - n of Rm
above; LSR bit i + n of Rm, 0 past the top; ASR the same with bit 31 past the top; ROR bit (i + n) mod 32. The carry-
out is bit 32 - n for LSL, bit n - 1 for the others (the spec's decision D9, log 19). (41_operand2_shifter.md R83,
41_operand2_shifter.md R85, 41_operand2_shifter.md R87, 41_operand2_shifter.md R89, 92_eei_decisions.md D9.) -/
def Obligations.ShiftByOneToThirtyOneMovesBits : Prop :=
  ∀ (s : State) (m : Mode) (o : ShiftImmOperand), o.amount ≠ 0#5 →
    let v := readOperandReg s m (.regImm o) o.rm
    let n := o.amount.toNat
    let out := shifter s m (.regImm o)
    (o.ty = .lsl → out.carry = v.getLsbD (32 - n) ∧
      ∀ i, i < 32 → out.value.getLsbD i = if i < n then false else v.getLsbD (i - n)) ∧
    (o.ty = .lsr → out.carry = v.getLsbD (n - 1) ∧
      ∀ i, i < 32 → out.value.getLsbD i = if i + n < 32 then v.getLsbD (i + n) else false) ∧
    (o.ty = .asr → out.carry = v.getLsbD (n - 1) ∧
      ∀ i, i < 32 → out.value.getLsbD i = if i + n < 32 then v.getLsbD (i + n) else v.getLsbD 31) ∧
    (o.ty = .ror → out.carry = v.getLsbD (n - 1) ∧
      ∀ i, i < 32 → out.value.getLsbD i = v.getLsbD ((i + n) % 32))

/-- With RS_AMOUNT_BYTE = low the amount is Rs modulo 256, with high it is Rs divided by 2^24; it is at most 255 and the
other 24 bits of Rs are not read. The reset setting is low (the spec's decision D6, log 3). (41_operand2_shifter.md
R91, 90_conflicts.md C12, 92_eei_decisions.md D6.) -/
def Obligations.AmountIsOneByteOfRs : Prop :=
  (∀ rs : Word, rsAmount .low rs = rs.toNat % 256 ∧ rsAmount .high rs = rs.toNat / 2 ^ 24) ∧
  (∀ (p : RsAmountByte) (rs : Word), rsAmount p rs ≤ 255) ∧
  (∀ (s : State) (m : Mode) (ty : ShiftType) (rs : Gpr) (rm : Reg),
    shifter s m (.regReg ⟨.gpr rs, ty, rm⟩) =
      shiftByReg ty (readOperandReg s m (.regReg ⟨.gpr rs, ty, rm⟩) rm) (rsAmount s.params.rsAmountByte (s.readReg m rs))
        s.flags.c) ∧
  State.reset.params.rsAmountByte = .low

/-- When the byte of Rs that gives the amount is 0, operand 2 is the value of Rm and the carry-out is the C flag before
the instruction, for LSL, LSR, ASR and ROR alike. (R92.) -/
def Obligations.RegisterAmountZeroPassesRmThrough : Prop :=
  ∀ (s : State) (m : Mode) (o : ShiftRegOperand), amountOf s m o = 0 →
    shifter s m (.regReg o) = ⟨rmValue s m o, s.flags.c⟩

/-- When the byte of Rs is from 1 to 31, operand 2 and carry-out are those of the shift of the same type of the same value
by the same amount written in the instruction: for Rm other than R15 those of the instruction itself with the constant
amount, and for every Rm those of the constant shift applied to the value read. (R93.) -/
def Obligations.RegisterAmountUpTo31AgreesWithConstant : Prop :=
  ∀ (s : State) (m : Mode) (o : ShiftRegOperand), 1 ≤ amountOf s m o → amountOf s m o ≤ 31 →
    shifter s m (.regReg o) = shiftByImm o.ty (rmValue s m o) (BitVec.ofNat 5 (amountOf s m o)) s.flags.c ∧
    (o.rm ≠ .pc → shifter s m (.regReg o) = shifter s m (.regImm ⟨BitVec.ofNat 5 (amountOf s m o), o.ty, o.rm⟩))

/-- With LSL and a register-specified amount: for 32, operand 2 is 0 and the carry-out is bit 0 of Rm; for more than 32,
operand 2 is 0 and the carry-out is 0. (R94.) -/
def Obligations.LslByRegister32OrMore : Prop :=
  ∀ (s : State) (m : Mode) (o : ShiftRegOperand), o.ty = .lsl →
    (amountOf s m o = 32 → shifter s m (.regReg o) = ⟨0x00000000#32, (rmValue s m o).getLsbD 0⟩) ∧
    (32 < amountOf s m o → shifter s m (.regReg o) = ⟨0x00000000#32, false⟩)

/-- With LSR and a register-specified amount: for 32, operand 2 is 0 and the carry-out is bit 31 of Rm; for more than 32,
operand 2 is 0 and the carry-out is 0. (R95.) -/
def Obligations.LsrByRegister32OrMore : Prop :=
  ∀ (s : State) (m : Mode) (o : ShiftRegOperand), o.ty = .lsr →
    (amountOf s m o = 32 → shifter s m (.regReg o) = ⟨0x00000000#32, (rmValue s m o).getLsbD 31⟩) ∧
    (32 < amountOf s m o → shifter s m (.regReg o) = ⟨0x00000000#32, false⟩)

/-- With ASR and a register-specified amount of 32 or more, operand 2 is 0xFFFFFFFF when bit 31 of Rm is 1 and 0 when it
is 0, and the carry-out is bit 31 of Rm. (R96.) -/
def Obligations.AsrByRegister32OrMore : Prop :=
  ∀ (s : State) (m : Mode) (o : ShiftRegOperand), o.ty = .asr → 32 ≤ amountOf s m o →
    shifter s m (.regReg o) =
      ⟨if (rmValue s m o).getLsbD 31 then 0xFFFFFFFF#32 else 0x00000000#32, (rmValue s m o).getLsbD 31⟩

/-- With ROR and a register-specified amount: for 32, operand 2 is Rm and the carry-out is bit 31 of Rm. For an amount 32
j + k above 32 with k from 1 to 32 (what is left after taking 32 away until the amount is in 1 to 32): for k = 32 the
same as for 32; for k from 1 to 31 the same as ROR #k written in the instruction. (R97.) -/
def Obligations.RorByRegister32OrMore : Prop :=
  ∀ (s : State) (m : Mode) (o : ShiftRegOperand), o.ty = .ror →
    (amountOf s m o = 32 → shifter s m (.regReg o) = ⟨rmValue s m o, (rmValue s m o).getLsbD 31⟩) ∧
    ∀ j k, 1 ≤ j → 1 ≤ k → k ≤ 32 → amountOf s m o = 32 * j + k →
      shifter s m (.regReg o) =
        if k = 32 then ⟨rmValue s m o, (rmValue s m o).getLsbD 31⟩
        else shiftByImm .ror (rmValue s m o) (BitVec.ofNat 5 k) s.flags.c

/-- AND in its three forms (constructors andImm, andRegImm, andRegReg), condition holding, Rs not R15: the result is the
bitwise and of operand 1 and operand 2; N is its bit 31, Z says it is 0, C is the shifter's carry-out, V stays. Rd not
R15: Rd's copy in the current mode gets the result, pc + 4, with S = 1 the flags and with S = 0 no flag, nothing else;
reading Rd in that mode then gives the result and reading any other register what it gave before. Rd = R15: S = 0
jumps to an aligned result and faults otherwise; S = 1 also copies the mode's SPSR to CPSR, with the stops the spec
decides in User and System mode and for an illegal or Thumb image (logs 6, 7, 9, 12, 13). (42_logical.md R111,
42_logical.md R110, 40_data_processing_common.md R64, R65, R67 to R69, R71.) -/
def Obligations.AndWritesConjunction : Prop :=
  ∀ (s : State) (m : Mode) (c : Cond) (rn : Reg), Runs s m c →
    EachForm
      (fun o sBit rd => Instr.andImm c sBit rn rd o)
      (fun o sBit rd => Instr.andRegImm c sBit rn rd o)
      (fun o sBit rd => Instr.andRegReg c sBit rn rd o)
      fun o row => WritesResult row s m (readOperandReg s m o rn &&& (shifter s m o).value) (logicalFlags s m o (readOperandReg s m o rn &&& (shifter s m o).value))

/-- EOR in its three forms (constructors eorImm, eorRegImm, eorRegReg), condition holding, Rs not R15: the result is the
bitwise exclusive or of operand 1 and operand 2; N is its bit 31, Z says it is 0, C is the shifter's carry-out, V
stays. Rd not R15: Rd's copy in the current mode gets the result, pc + 4, with S = 1 the flags and with S = 0 no flag,
nothing else; reading Rd in that mode then gives the result and reading any other register what it gave before. Rd =
R15: S = 0 jumps to an aligned result and faults otherwise; S = 1 also copies the mode's SPSR to CPSR, with the stops
the spec decides in User and System mode and for an illegal or Thumb image (logs 6, 7, 9, 12, 13). (42_logical.md
R112, 42_logical.md R110, 40_data_processing_common.md R64, R65, R67 to R69, R71.) -/
def Obligations.EorWritesExclusiveOr : Prop :=
  ∀ (s : State) (m : Mode) (c : Cond) (rn : Reg), Runs s m c →
    EachForm
      (fun o sBit rd => Instr.eorImm c sBit rn rd o)
      (fun o sBit rd => Instr.eorRegImm c sBit rn rd o)
      (fun o sBit rd => Instr.eorRegReg c sBit rn rd o)
      fun o row => WritesResult row s m (readOperandReg s m o rn ^^^ (shifter s m o).value) (logicalFlags s m o (readOperandReg s m o rn ^^^ (shifter s m o).value))

/-- ORR in its three forms (constructors orrImm, orrRegImm, orrRegReg), condition holding, Rs not R15: the result is the
bitwise or of operand 1 and operand 2; N is its bit 31, Z says it is 0, C is the shifter's carry-out, V stays. Rd not
R15: Rd's copy in the current mode gets the result, pc + 4, with S = 1 the flags and with S = 0 no flag, nothing else;
reading Rd in that mode then gives the result and reading any other register what it gave before. Rd = R15: S = 0
jumps to an aligned result and faults otherwise; S = 1 also copies the mode's SPSR to CPSR, with the stops the spec
decides in User and System mode and for an illegal or Thumb image (logs 6, 7, 9, 12, 13). (42_logical.md R115,
42_logical.md R110, 40_data_processing_common.md R64, R65, R67 to R69, R71.) -/
def Obligations.OrrWritesDisjunction : Prop :=
  ∀ (s : State) (m : Mode) (c : Cond) (rn : Reg), Runs s m c →
    EachForm
      (fun o sBit rd => Instr.orrImm c sBit rn rd o)
      (fun o sBit rd => Instr.orrRegImm c sBit rn rd o)
      (fun o sBit rd => Instr.orrRegReg c sBit rn rd o)
      fun o row => WritesResult row s m (readOperandReg s m o rn ||| (shifter s m o).value) (logicalFlags s m o (readOperandReg s m o rn ||| (shifter s m o).value))

/-- MOV in its three forms (constructors movImm, movRegImm, movRegReg), condition holding, Rs not R15: the result is the
operand 2; operand 1 is ignored; N is its bit 31, Z says it is 0, C is the shifter's carry-out, V stays. Rd not R15:
Rd's copy in the current mode gets the result, pc + 4, with S = 1 the flags and with S = 0 no flag, nothing else;
reading Rd in that mode then gives the result and reading any other register what it gave before. Rd = R15: S = 0
jumps to an aligned result and faults otherwise; S = 1 also copies the mode's SPSR to CPSR, with the stops the spec
decides in User and System mode and for an illegal or Thumb image (logs 6, 7, 9, 12, 13). (42_logical.md R116,
42_logical.md R110, 40_data_processing_common.md R64, R65, R67 to R69, R71.) -/
def Obligations.MovWritesOperand2 : Prop :=
  ∀ (s : State) (m : Mode) (c : Cond) (rn : Reg), Runs s m c →
    EachForm
      (fun o sBit rd => Instr.movImm c sBit rn rd o)
      (fun o sBit rd => Instr.movRegImm c sBit rn rd o)
      (fun o sBit rd => Instr.movRegReg c sBit rn rd o)
      fun o row => WritesResult row s m ((shifter s m o).value) (logicalFlags s m o ((shifter s m o).value))

/-- BIC in its three forms (constructors bicImm, bicRegImm, bicRegReg), condition holding, Rs not R15: the result is the
operand 1 with every bit cleared that is set in operand 2; N is its bit 31, Z says it is 0, C is the shifter's carry-
out, V stays. Rd not R15: Rd's copy in the current mode gets the result, pc + 4, with S = 1 the flags and with S = 0
no flag, nothing else; reading Rd in that mode then gives the result and reading any other register what it gave
before. Rd = R15: S = 0 jumps to an aligned result and faults otherwise; S = 1 also copies the mode's SPSR to CPSR,
with the stops the spec decides in User and System mode and for an illegal or Thumb image (logs 6, 7, 9, 12, 13).
(42_logical.md R117, 42_logical.md R110, 40_data_processing_common.md R64, R65, R67 to R69, R71.) -/
def Obligations.BicClearsBits : Prop :=
  ∀ (s : State) (m : Mode) (c : Cond) (rn : Reg), Runs s m c →
    EachForm
      (fun o sBit rd => Instr.bicImm c sBit rn rd o)
      (fun o sBit rd => Instr.bicRegImm c sBit rn rd o)
      (fun o sBit rd => Instr.bicRegReg c sBit rn rd o)
      fun o row => WritesResult row s m (readOperandReg s m o rn &&& ~~~(shifter s m o).value) (logicalFlags s m o (readOperandReg s m o rn &&& ~~~(shifter s m o).value))

/-- MVN in its three forms (constructors mvnImm, mvnRegImm, mvnRegReg), condition holding, Rs not R15: the result is the
bitwise complement of operand 2; operand 1 is ignored; N is its bit 31, Z says it is 0, C is the shifter's carry-out,
V stays. Rd not R15: Rd's copy in the current mode gets the result, pc + 4, with S = 1 the flags and with S = 0 no
flag, nothing else; reading Rd in that mode then gives the result and reading any other register what it gave before.
Rd = R15: S = 0 jumps to an aligned result and faults otherwise; S = 1 also copies the mode's SPSR to CPSR, with the
stops the spec decides in User and System mode and for an illegal or Thumb image (logs 6, 7, 9, 12, 13).
(42_logical.md R118, 42_logical.md R110, 40_data_processing_common.md R64, R65, R67 to R69, R71.) -/
def Obligations.MvnWritesComplement : Prop :=
  ∀ (s : State) (m : Mode) (c : Cond) (rn : Reg), Runs s m c →
    EachForm
      (fun o sBit rd => Instr.mvnImm c sBit rn rd o)
      (fun o sBit rd => Instr.mvnRegImm c sBit rn rd o)
      (fun o sBit rd => Instr.mvnRegReg c sBit rn rd o)
      fun o row => WritesResult row s m (~~~(shifter s m o).value) (logicalFlags s m o (~~~(shifter s m o).value))

/-- TST in its three forms (constructors tstImm, tstRegImm, tstRegReg) with Rd not 1111, condition holding, Rs not R15: N,
Z from the bitwise and of operand 1 and operand 2, C from the shifter's carry-out, V stays, pc + 4, nothing else
changes, no register is written. (42_logical.md R113, 42_logical.md R110, 40_data_processing_common.md R64, R65, R71.) -/
def Obligations.TstTestsConjunction : Prop :=
  ∀ (s : State) (m : Mode) (c : Cond) (rn : Reg), Runs s m c →
    EachForm
      (fun o rd => Instr.tstImm c rn rd o)
      (fun o rd => Instr.tstRegImm c rn rd o)
      (fun o rd => Instr.tstRegReg c rn rd o)
      fun o row => TestsOnly row s (logicalFlags s m o (readOperandReg s m o rn &&& (shifter s m o).value))

/-- TEQ in its three forms (constructors teqImm, teqRegImm, teqRegReg) with Rd not 1111, condition holding, Rs not R15: N,
Z from the bitwise exclusive or of operand 1 and operand 2, C from the shifter's carry-out, V stays, pc + 4, nothing
else changes, no register is written. Z = 1 exactly when operand 1 equals operand 2. (42_logical.md R114,
42_logical.md R110, 40_data_processing_common.md R64, R65, R71.) -/
def Obligations.TeqTestsExclusiveOr : Prop :=
  ∀ (s : State) (m : Mode) (c : Cond) (rn : Reg), Runs s m c →
    EachForm
      (fun o rd => Instr.teqImm c rn rd o)
      (fun o rd => Instr.teqRegImm c rn rd o)
      (fun o rd => Instr.teqRegReg c rn rd o)
      fun o row => TestsOnly row s (logicalFlags s m o (readOperandReg s m o rn ^^^ (shifter s m o).value)) ∧
        (∀ g t, exec (row (.gpr g)) s = .next t → (t.flags.z = true ↔ readOperandReg s m o rn = (shifter s m o).value))

/-- SUB in its three forms (constructors subImm, subRegImm, subRegReg), condition holding, Rs not R15: the result is
operand 1 minus operand 2 modulo 2^32; N is its bit 31, Z says it is 0, C = 1 iff operand 1 >= operand 2 unsigned, V =
1 iff the exact signed result does not fit (log 19). Rd not R15: Rd's copy in the current mode gets the result, pc +
4, with S = 1 the flags and with S = 0 no flag, nothing else; reading Rd in that mode then gives the result and
reading any other register what it gave before. Rd = R15: S = 0 jumps to an aligned result and faults otherwise; S = 1
also copies the mode's SPSR to CPSR, with the stops the spec decides in User and System mode and for an illegal or
Thumb image (logs 6, 7, 9, 12, 13). (43_arithmetic.md R121, 43_arithmetic.md R120, 40_data_processing_common.md R64,
R66 to R69, R71.) -/
def Obligations.SubWritesDifference : Prop :=
  ∀ (s : State) (m : Mode) (c : Cond) (rn : Reg), Runs s m c →
    EachForm
      (fun o sBit rd => Instr.subImm c sBit rn rd o)
      (fun o sBit rd => Instr.subRegImm c sBit rn rd o)
      (fun o sBit rd => Instr.subRegReg c sBit rn rd o)
      fun o row =>
        let a := readOperandReg s m o rn
        let b := (shifter s m o).value
        WritesResult row s m (a - b) (arithmeticFlags (a - b) (decide (b.toNat ≤ a.toNat)) (a.toInt - b.toInt))

/-- RSB in its three forms (constructors rsbImm, rsbRegImm, rsbRegReg), condition holding, Rs not R15: the result is
operand 2 minus operand 1 modulo 2^32; N is its bit 31, Z says it is 0, C = 1 iff operand 2 >= operand 1 unsigned, V =
1 iff the exact signed result does not fit (log 19). Rd not R15: Rd's copy in the current mode gets the result, pc +
4, with S = 1 the flags and with S = 0 no flag, nothing else; reading Rd in that mode then gives the result and
reading any other register what it gave before. Rd = R15: S = 0 jumps to an aligned result and faults otherwise; S = 1
also copies the mode's SPSR to CPSR, with the stops the spec decides in User and System mode and for an illegal or
Thumb image (logs 6, 7, 9, 12, 13). (43_arithmetic.md R122, 43_arithmetic.md R120, 40_data_processing_common.md R64,
R66 to R69, R71.) -/
def Obligations.RsbWritesReverseDifference : Prop :=
  ∀ (s : State) (m : Mode) (c : Cond) (rn : Reg), Runs s m c →
    EachForm
      (fun o sBit rd => Instr.rsbImm c sBit rn rd o)
      (fun o sBit rd => Instr.rsbRegImm c sBit rn rd o)
      (fun o sBit rd => Instr.rsbRegReg c sBit rn rd o)
      fun o row =>
        let a := readOperandReg s m o rn
        let b := (shifter s m o).value
        WritesResult row s m (b - a) (arithmeticFlags (b - a) (decide (a.toNat ≤ b.toNat)) (b.toInt - a.toInt))

/-- ADD in its three forms (constructors addImm, addRegImm, addRegReg), condition holding, Rs not R15: the result is sum
of operand 1 and operand 2 modulo 2^32; N is its bit 31, Z says it is 0, C is the carry out of bit 31, V = 1 iff the
exact signed result does not fit (log 19). Rd not R15: Rd's copy in the current mode gets the result, pc + 4, with S =
1 the flags and with S = 0 no flag, nothing else; reading Rd in that mode then gives the result and reading any other
register what it gave before. Rd = R15: S = 0 jumps to an aligned result and faults otherwise; S = 1 also copies the
mode's SPSR to CPSR, with the stops the spec decides in User and System mode and for an illegal or Thumb image (logs
6, 7, 9, 12, 13). (43_arithmetic.md R123, 43_arithmetic.md R120, 40_data_processing_common.md R64, R66 to R69, R71.) -/
def Obligations.AddWritesSum : Prop :=
  ∀ (s : State) (m : Mode) (c : Cond) (rn : Reg), Runs s m c →
    EachForm
      (fun o sBit rd => Instr.addImm c sBit rn rd o)
      (fun o sBit rd => Instr.addRegImm c sBit rn rd o)
      (fun o sBit rd => Instr.addRegReg c sBit rn rd o)
      fun o row =>
        let a := readOperandReg s m o rn
        let b := (shifter s m o).value
        WritesResult row s m (a + b) (arithmeticFlags (a + b) (decide (2 ^ 32 ≤ a.toNat + b.toNat)) (a.toInt + b.toInt))

/-- ADC in its three forms (constructors adcImm, adcRegImm, adcRegReg), condition holding, Rs not R15: the result is sum
of operand 1, operand 2 and the old C modulo 2^32; N is its bit 31, Z says it is 0, C is the carry out of bit 31, V =
1 iff the exact signed result does not fit (log 19). Rd not R15: Rd's copy in the current mode gets the result, pc +
4, with S = 1 the flags and with S = 0 no flag, nothing else; reading Rd in that mode then gives the result and
reading any other register what it gave before. Rd = R15: S = 0 jumps to an aligned result and faults otherwise; S = 1
also copies the mode's SPSR to CPSR, with the stops the spec decides in User and System mode and for an illegal or
Thumb image (logs 6, 7, 9, 12, 13). (43_arithmetic.md R124, 43_arithmetic.md R120, 40_data_processing_common.md R64,
R66 to R69, R71.) -/
def Obligations.AdcWritesSumWithCarry : Prop :=
  ∀ (s : State) (m : Mode) (c : Cond) (rn : Reg), Runs s m c →
    EachForm
      (fun o sBit rd => Instr.adcImm c sBit rn rd o)
      (fun o sBit rd => Instr.adcRegImm c sBit rn rd o)
      (fun o sBit rd => Instr.adcRegReg c sBit rn rd o)
      fun o row =>
        let a := readOperandReg s m o rn
        let b := (shifter s m o).value
        let k := s.flags.c.toNat
        WritesResult row s m (a + b + BitVec.ofNat 32 k) (arithmeticFlags (a + b + BitVec.ofNat 32 k) (decide (2 ^ 32 ≤ a.toNat + b.toNat + k)) (a.toInt + b.toInt + k))

/-- SBC in its three forms (constructors sbcImm, sbcRegImm, sbcRegReg), condition holding, Rs not R15: the result is
operand 1 minus operand 2, and one less when the old C is 0 modulo 2^32; N is its bit 31, Z says it is 0, C = 1 iff
operand 1 >= operand 2 + (1 - C) unsigned, V = 1 iff the exact signed result does not fit (log 19). Rd not R15: Rd's
copy in the current mode gets the result, pc + 4, with S = 1 the flags and with S = 0 no flag, nothing else; reading
Rd in that mode then gives the result and reading any other register what it gave before. Rd = R15: S = 0 jumps to an
aligned result and faults otherwise; S = 1 also copies the mode's SPSR to CPSR, with the stops the spec decides in
User and System mode and for an illegal or Thumb image (logs 6, 7, 9, 12, 13). (43_arithmetic.md R125,
43_arithmetic.md R120, 40_data_processing_common.md R64, R66 to R69, R71.) -/
def Obligations.SbcWritesDifferenceWithBorrow : Prop :=
  ∀ (s : State) (m : Mode) (c : Cond) (rn : Reg), Runs s m c →
    EachForm
      (fun o sBit rd => Instr.sbcImm c sBit rn rd o)
      (fun o sBit rd => Instr.sbcRegImm c sBit rn rd o)
      (fun o sBit rd => Instr.sbcRegReg c sBit rn rd o)
      fun o row =>
        let a := readOperandReg s m o rn
        let b := (shifter s m o).value
        let k := (!s.flags.c).toNat
        WritesResult row s m (a - b - BitVec.ofNat 32 k) (arithmeticFlags (a - b - BitVec.ofNat 32 k) (decide (b.toNat + k ≤ a.toNat)) (a.toInt - b.toInt - k))

/-- RSC in its three forms (constructors rscImm, rscRegImm, rscRegReg), condition holding, Rs not R15: the result is
operand 2 minus operand 1, and one less when the old C is 0 modulo 2^32; N is its bit 31, Z says it is 0, C = 1 iff
operand 2 >= operand 1 + (1 - C) unsigned, V = 1 iff the exact signed result does not fit (log 19). Rd not R15: Rd's
copy in the current mode gets the result, pc + 4, with S = 1 the flags and with S = 0 no flag, nothing else; reading
Rd in that mode then gives the result and reading any other register what it gave before. Rd = R15: S = 0 jumps to an
aligned result and faults otherwise; S = 1 also copies the mode's SPSR to CPSR, with the stops the spec decides in
User and System mode and for an illegal or Thumb image (logs 6, 7, 9, 12, 13). (43_arithmetic.md R126,
43_arithmetic.md R120, 40_data_processing_common.md R64, R66 to R69, R71.) -/
def Obligations.RscWritesReverseDifferenceWithBorrow : Prop :=
  ∀ (s : State) (m : Mode) (c : Cond) (rn : Reg), Runs s m c →
    EachForm
      (fun o sBit rd => Instr.rscImm c sBit rn rd o)
      (fun o sBit rd => Instr.rscRegImm c sBit rn rd o)
      (fun o sBit rd => Instr.rscRegReg c sBit rn rd o)
      fun o row =>
        let a := readOperandReg s m o rn
        let b := (shifter s m o).value
        let k := (!s.flags.c).toNat
        WritesResult row s m (b - a - BitVec.ofNat 32 k) (arithmeticFlags (b - a - BitVec.ofNat 32 k) (decide (a.toNat + k ≤ b.toNat)) (b.toInt - a.toInt - k))

/-- CMP in its three forms (constructors cmpImm, cmpRegImm, cmpRegReg) with Rd not 1111, condition holding, Rs not R15:
the flags are those of operand 1 minus operand 2, pc + 4, nothing else changes; afterwards Z = 1 iff the operands are
equal, C = 1 iff operand 1 >= operand 2 unsigned, and N differs from V iff operand 1 < operand 2 signed (log 19).
(43_arithmetic.md R127, 43_arithmetic.md R120, 40_data_processing_common.md R64, R66, R71.) -/
def Obligations.CmpComparesOperands : Prop :=
  ∀ (s : State) (m : Mode) (c : Cond) (rn : Reg), Runs s m c →
    EachForm
      (fun o rd => Instr.cmpImm c rn rd o)
      (fun o rd => Instr.cmpRegImm c rn rd o)
      (fun o rd => Instr.cmpRegReg c rn rd o)
      fun o row =>
        let a := readOperandReg s m o rn
        let b := (shifter s m o).value
        TestsOnly row s (arithmeticFlags (a - b) (decide (b.toNat ≤ a.toNat)) (a.toInt - b.toInt)) ∧
        ∀ g, ∃ t, exec (row (.gpr g)) s = .next t ∧ (t.flags.z = true ↔ a = b) ∧
          (t.flags.c = true ↔ b.toNat ≤ a.toNat) ∧ (t.flags.n ≠ t.flags.v ↔ a.toInt < b.toInt)

/-- CMN in its three forms (constructors cmnImm, cmnRegImm, cmnRegReg) with Rd not 1111, condition holding, Rs not R15:
the flags are those of operand 1 plus operand 2, pc + 4, nothing else changes; afterwards Z = 1 iff operand 1 =
-operand 2 modulo 2^32. (43_arithmetic.md R128, 43_arithmetic.md R120, 40_data_processing_common.md R64, R66, R71.) -/
def Obligations.CmnTestsSum : Prop :=
  ∀ (s : State) (m : Mode) (c : Cond) (rn : Reg), Runs s m c →
    EachForm
      (fun o rd => Instr.cmnImm c rn rd o)
      (fun o rd => Instr.cmnRegImm c rn rd o)
      (fun o rd => Instr.cmnRegReg c rn rd o)
      fun o row =>
        let a := readOperandReg s m o rn
        let b := (shifter s m o).value
        TestsOnly row s (arithmeticFlags (a + b) (decide (2 ^ 32 ≤ a.toNat + b.toNat)) (a.toInt + b.toInt)) ∧
        ∀ g, ∃ t, exec (row (.gpr g)) s = .next t ∧ (t.flags.z = true ↔ a = -b)

/-- The four tests with Rd = 1111 in their three forms, condition holding, Rs not R15. In User mode TEQP only advances the
pc and the other three fault. In System mode all fault (no SPSR). In the five exception modes CPSR becomes the mode's
SPSR and the pc advances, no register and no flag of the test is written; an image with an illegal mode faults and one
with T = 1 is refused (the spec's general knowledge and decisions D14, D15, logs 8 and 9).
(40_data_processing_common.md R70, 40_data_processing_common.md R74, 92_eei_decisions.md D14, D15.) -/
def Obligations.PFormsCopySpsr : Prop :=
  ∀ (s : State) (m : Mode) (c : Cond) (rn : Reg), Runs s m c →
    let Restores := fun (i : Instr) =>
      CopiesSpsr (exec i s) s m fun saved => .next { s with cpsr := saved, pc := s.pc + 4#32 }
    EachForm (fun o => Instr.teqImm c rn .pc o) (fun o => Instr.teqRegImm c rn .pc o) (fun o => Instr.teqRegReg c rn .pc o)
      (fun _ i => (m = .usr → exec i s = .next { s with pc := s.pc + 4#32 }) ∧ (m ≠ .usr → Restores i)) ∧
    EachForm (fun o => Instr.tstImm c rn .pc o) (fun o => Instr.tstRegImm c rn .pc o) (fun o => Instr.tstRegReg c rn .pc o)
      (fun _ i => (m = .usr → exec i s = .fault .testPFormInUserMode) ∧ (m ≠ .usr → Restores i)) ∧
    EachForm (fun o => Instr.cmpImm c rn .pc o) (fun o => Instr.cmpRegImm c rn .pc o) (fun o => Instr.cmpRegReg c rn .pc o)
      (fun _ i => (m = .usr → exec i s = .fault .testPFormInUserMode) ∧ (m ≠ .usr → Restores i)) ∧
    EachForm (fun o => Instr.cmnImm c rn .pc o) (fun o => Instr.cmnRegImm c rn .pc o) (fun o => Instr.cmnRegReg c rn .pc o)
      (fun _ i => (m = .usr → exec i s = .fault .testPFormInUserMode) ∧ (m ≠ .usr → Restores i))

/-- For every instruction of the logical class with S = 1 and Rd not R15, condition holding, Rs not R15: exec answers a
next state whose N is bit 31 of the result, whose Z is 1 exactly when the result is 0, whose C is the shifter's carry-
out, and whose V is as before. For TST and TEQ the result is the one computed and discarded. (R65.) -/
def Obligations.LogicalFlagsFollowTheResult : Prop :=
  ∀ (i : Instr) (s : State) (m : Mode) (g : Gpr) (r : Word), Runs s m i.cond → i.wellFormed = true → i.sBit = true →
    i.fields.rd = .gpr g →
    logicalResult i.fields.op (readOperandReg s m i.fields.op2 i.fields.rn) (shifter s m i.fields.op2).value = some r →
    ∃ t, exec i s = .next t ∧ t.flags.n = r.getLsbD 31 ∧ (t.flags.z = true ↔ r = 0#32) ∧
      t.flags.c = (shifter s m i.fields.op2).carry ∧ t.flags.v = s.flags.v

/-- For every instruction of the arithmetic class with S = 1 and Rd not R15, condition holding, Rs not R15: with x, y and
the carry in that the instruction gives the adder, r the sum modulo 2^32, exec answers a next state whose N is bit 31
of r, whose Z is 1 exactly when r is 0, whose C is the carry out of bit 31 and whose V is 1 exactly when x and y have
the same bit 31 and r another (the bit formula of R120). The words each instruction gives the adder are those of R121
to R128. (That a subtraction adds the complement with a carry in, so that C is NOT borrow, and what overflow means,
are the spec's derivation and decisions D10 and D11, the model's choice in log 19.) (40_data_processing_common.md R66,
43_arithmetic.md R120, 43_arithmetic.md R121 to R128, 92_eei_decisions.md D10, D11.) -/
def Obligations.ArithmeticFlagsFollowTheAdder : Prop :=
  ∀ (i : Instr) (s : State) (m : Mode) (g : Gpr) (x y : Word) (cin : Bool), Runs s m i.cond → i.wellFormed = true →
    i.sBit = true → i.fields.rd = .gpr g →
    adderInputs i.fields.op (readOperandReg s m i.fields.op2 i.fields.rn) (shifter s m i.fields.op2).value s.flags.c
      = some (x, y, cin) →
    let r := x + y + BitVec.ofNat 32 cin.toNat
    ∃ t, exec i s = .next t ∧ t.flags.n = r.getLsbD 31 ∧ (t.flags.z = true ↔ r = 0#32) ∧
      (t.flags.c = true ↔ 2 ^ 32 ≤ x.toNat + y.toNat + cin.toNat) ∧
      (t.flags.v = true ↔ x.getLsbD 31 = y.getLsbD 31 ∧ r.getLsbD 31 ≠ x.getLsbD 31)

/-- For every instruction with S = 0, every Rd, R15 included: whenever exec answers a next state, CPSR is unchanged, flags
and all. No instruction of the four tests has S = 0: that is the spec's decision D13, which refuses those words, the
model's choice in log 11. (40_data_processing_common.md R67, 30_encoding.md R50, 92_eei_decisions.md D13.) -/
def Obligations.NoFlagIsWrittenWithSZero : Prop :=
  ∀ i : Instr, i.sBit = false →
    i.fields.op.isTest = false ∧ ∀ (s t : State), exec i s = .next t → t.cpsr = s.cpsr ∧ t.flags = s.flags

/-- For two 64-bit numbers in high and low words: the low words added with carry in 0 and the high words added with the C
that gave, are the 64-bit sum; the low words subtracted (x + NOT y + 1) and the high words subtracted with the C that
gave (x + NOT y + C), are the 64-bit difference, and the last C says that there is no borrow (log 19).
(43_arithmetic.md R120, 43_arithmetic.md R124, 43_arithmetic.md R125, 70_reset_and_hazards.md R153.) -/
def Obligations.CarryChainsAcrossWords : Prop :=
  ∀ ah al bh bl : Word,
    let lo := addWithCarry al bl false
    let hi := addWithCarry ah bh lo.flags.c
    let lo' := addWithCarry al (~~~bl) true
    let hi' := addWithCarry ah (~~~bh) lo'.flags.c
    hi.result ++ lo.result = (ah ++ al) + (bh ++ bl) ∧ hi'.result ++ lo'.result = (ah ++ al) - (bh ++ bl) ∧
    (hi'.flags.c = true ↔ (bh ++ bl).toNat ≤ (ah ++ al).toNat)

/-- At reset pc is 0, CPSR is 0x000000D3 (Supervisor mode, T = 0, I = F = 1, flags 0), every copy of R0 to R14 and every
SPSR is 0, no byte of memory is listed and the parameters are low and little. The model's choice throughout: logs 1,
2, 3, 4 and 5. (70_reset_and_hazards.md R150, 10_state.md R23.) -/
def Obligations.ResetStateValues : Prop :=
  State.reset.pc = 0#32 ∧ State.reset.cpsr = 0x000000D3#32 ∧ State.reset.mode = some .svc ∧
  psrThumb State.reset.cpsr = false ∧ (∀ p, State.reset.regs.get p = 0#32) ∧
  (∀ m v, State.reset.spsr.get m = some v → v = 0#32) ∧ (∀ a, readByte State.reset.mem a = none) ∧
  State.reset.params = ⟨.low, .little⟩

/-- State.reset satisfies the invariant that 70_reset_and_hazards.md R150 asks of every initial state. R150 says that the
spec's model does not start from reset: the reset pc, mode and state bit are the family's, PRESUMED in log 1, and that
no byte of memory is listed is the model's choice, log 5. (70_reset_and_hazards.md R150, 10_state.md R15.) -/
def Obligations.ResetIsLegal : Prop :=
  State.reset.legal = true

/-- For every legal state s (pc a multiple of 4, CPSR.M one of the seven modes, T = 0, memory in canonical form), not only
those a run reaches: if step s answers next t, then t is legal. (The spec's decisions D15 and D18, logs 6 and 9.)
(10_state.md R15, 20_memory.md R33, 40_data_processing_common.md R74, 70_reset_and_hazards.md R150.) -/
def Obligations.StepKeepsLegal : Prop :=
  ∀ s t : State, s.legal = true → step s = .next t → t.legal = true

/-- For every state: if step answers next t, then every byte of memory reads in t as before, the memory is the same, and
so are the five SPSRs and both parameters: in-scope instructions store nothing and only read an SPSR. (20_memory.md
R32, 20_memory.md R37, 10_state.md R19, 40_data_processing_common.md R72.) -/
def Obligations.StepKeepsMemorySpsrsAndParameters : Prop :=
  ∀ s t : State, step s = .next t →
    (∀ a, readByte t.mem a = readByte s.mem a) ∧ t.mem = s.mem ∧ t.spsr = s.spsr ∧ t.params = s.params

/-- For every instruction, every state and every other memory: executing the instruction with that memory answers what it
answers with the first, the next state differing in that memory only, and a stop being the same stop. (20_memory.md
R32, 40_data_processing_common.md R72.) -/
def Obligations.ExecutionReadsNoMemory : Prop :=
  ∀ (i : Instr) (s : State) (mem : Memory),
    exec i { s with mem := mem } =
      match exec i s with
      | .next t => .next { t with mem := mem }
      | .fault f => .fault f
      | .refused r => .refused r

/-- For every instruction that answers a next state in mode m: every physical register but the destination's copy in mode
m is unchanged, and all of them for a test, for Rd = R15 and for a failed condition; memory, SPSRs and parameters are
unchanged; bits 27 to 0 of CPSR are unchanged unless S = 1 and Rd = R15; CPSR is unchanged when the condition fails.
(What a failed condition leaves is the spec's decision D12, PRESUMED in log 20; which copy is the destination's is
general knowledge, log 13.) (40_data_processing_common.md R60, 40_data_processing_common.md R64,
40_data_processing_common.md R65 to R71, 10_state.md R13, R17, R18, R19, 92_eei_decisions.md D12.) -/
def Obligations.FrameOfEveryInstruction : Prop :=
  ∀ (i : Instr) (s t : State) (m : Mode), s.mode = some m → exec i s = .next t →
    (∀ p, (i.fields.op.isTest = false → ∀ g, i.fields.rd = .gpr g → p ≠ bank m g) → t.regs.get p = s.regs.get p) ∧
    (condHolds i.cond s.flags = false → t.regs = s.regs ∧ t.cpsr = s.cpsr) ∧
    (i.sBit = false ∨ i.fields.rd ≠ .pc → t.cpsr.extractLsb' 0 28 = s.cpsr.extractLsb' 0 28) ∧
    (∀ a, readByte t.mem a = readByte s.mem a) ∧ t.mem = s.mem ∧ t.spsr = s.spsr ∧ t.params = s.params

/-- For every instruction that answers a next state in which bits 27 to 0 of CPSR are not as before: its S bit is 1, its
Rd is R15, the machine was in one of the five exception modes, and CPSR is now the whole SPSR of that mode, which
names one of the seven modes and has T = 0. (That an image with no mode or with T = 1 stops is the spec's decision D15
and that all bits are copied its general knowledge GK19: the model's choice, log 9.) (60_exceptions.md R146,
10_state.md R18, 40_data_processing_common.md R69, R70, R74, 92_eei_decisions.md D15, 93_implementation_defined.md
GK19.) -/
def Obligations.ModeChangesOnlyByRestoringCpsr : Prop :=
  ∀ (i : Instr) (s t : State), exec i s = .next t → t.cpsr.extractLsb' 0 28 ≠ s.cpsr.extractLsb' 0 28 →
    i.sBit = true ∧ i.fields.rd = .pc ∧
    ∃ m, s.mode = some m ∧ m ≠ .usr ∧ m ≠ .sys ∧ s.spsr.get m = some t.cpsr ∧ t.mode ≠ none ∧ psrThumb t.cpsr = false

/-- For every state in User mode: if step answers next t, then t is in User mode, bits 27 to 0 of CPSR (masks, state bit,
mode) are as before, every SPSR is as before, and so is every copy of R8 to R14 that User mode does not see (the
copies are general knowledge, log 13). (60_exceptions.md R146, 10_state.md R13, R19.) -/
def Obligations.UserModeStaysConfined : Prop :=
  ∀ s t : State, s.mode = some .usr → step s = .next t →
    t.mode = some .usr ∧ t.cpsr.extractLsb' 0 28 = s.cpsr.extractLsb' 0 28 ∧ t.spsr = s.spsr ∧
    ∀ p, (∀ g, p ≠ bank .usr g) → t.regs.get p = s.regs.get p

/-- For two states in User mode with the same pc, CPSR, memory, parameters and User-mode registers, whatever their SPSRs
and other register copies: step either stops both the same way, or answers two next states that agree on the same
things again. (Which copies User mode sees is general knowledge, log 13.) (60_exceptions.md R146, 10_state.md R13,
R19, 40_data_processing_common.md R69, R70.) -/
def Obligations.UserModeLearnsNothingPrivileged : Prop :=
  ∀ s s' : State, s.mode = some .usr → SameForUser s s' → SameAnswer SameForUser (step s) (step s')

/-- For every exception but reset, from every state in a legal mode and ARM state, with the aligned address of the next
instruction: entry goes to the vector and the mode of R141's table, saves CPSR in that mode's SPSR and the address
plus 0 or 4 in its R14, sets I, clears T, sets F for FIQ and else keeps it, and leaves CPSR bits 31 to 8, every other
register copy, every other SPSR, memory and parameters. Then the return instruction of R145 (MOVS PC,R14, SUBS
PC,R14,#4 or SUBS PC,R14,#8) answers the next state with the old CPSR and the pc at the next instruction, or at the
aborted one for an abort, all else as entry left it. (Entry is the spec's general knowledge and which exception has
which offset the model's deduction: logs 14 and 21.) (60_exceptions.md R141, 60_exceptions.md R144, 60_exceptions.md
R145, 40_data_processing_common.md R69.) -/
def Obligations.ExceptionEntryThenReturn : Prop :=
  ∀ (e : Exception) (s : State) (m : Mode) (next : Word), s.mode = some m → psrThumb s.cpsr = false →
    next.extractLsb' 0 2 = 0#2 →
    let t := takeException e next s
    let entered := (vectorAndMode e).2
    exec (returnInstr e) t = .next { t with cpsr := s.cpsr, pc := resumeAt e next } ∧
    t.pc = (vectorAndMode e).1 ∧ t.mode = some entered ∧ t.spsr.get entered = some s.cpsr ∧
    (∀ m', m' ≠ entered → t.spsr.get m' = s.spsr.get m') ∧ t.readReg entered .r14 = next + savedOffset e ∧
    t.cpsr.getLsbD 7 = true ∧ (e = .fiq → t.cpsr.getLsbD 6 = true) ∧ (e ≠ .fiq → t.cpsr.getLsbD 6 = s.cpsr.getLsbD 6) ∧
    t.cpsr.getLsbD 5 = false ∧ t.cpsr.extractLsb' 8 24 = s.cpsr.extractLsb' 8 24 ∧
    t.mem = s.mem ∧ t.params = s.params ∧ ∀ p, p ≠ bank entered .r14 → t.regs.get p = s.regs.get p

/-- An executed instruction takes 1S; with a register-specified shift 1S + 1I; when it writes R15 2S + 1N; with both 2S +
1N + 1I. One whose condition fails takes 1S (the spec's general knowledge, log 16). (70_reset_and_hazards.md R154.) -/
def Obligations.CycleCountsOfTable8 : Prop :=
  ∀ (i : Instr) (f : Flags),
    let byRegister := formOf i.fields.op2 = .regReg
    let toPc := i.fields.rd = .pc ∧ i.fields.op.isTest = false
    (condHolds i.cond f = true →
      (¬ byRegister → ¬ toPc → instrCycles i f = ⟨1, 0, 0⟩) ∧ (byRegister → ¬ toPc → instrCycles i f = ⟨1, 0, 1⟩) ∧
      (¬ byRegister → toPc → instrCycles i f = ⟨2, 1, 0⟩) ∧ (byRegister → toPc → instrCycles i f = ⟨2, 1, 1⟩)) ∧
    (condHolds i.cond f = false → instrCycles i f = ⟨1, 0, 0⟩)

/-- If the assembler finds a rotated constant for a 32-bit expression, the shifter gives exactly that expression for it,
and no immediate operand with a smaller rotate does; if it finds none, no immediate operand gives the expression.
(That the smallest rotate is chosen is the spec's general knowledge, log 17.) (30_encoding.md R54, 30_encoding.md R55,
41_operand2_shifter.md R81.) -/
def Obligations.AssembledConstantIsTheExpression : Prop :=
  ∀ value : Word,
    (∀ o, assembleConstant value = some o →
      (immShift o false).value = value ∧ ∀ o', (immShift o' false).value = value → o.rotate.toNat ≤ o'.rotate.toNat) ∧
    (assembleConstant value = none → ∀ o, (immShift o false).value ≠ value)

/-- ASL assembles as LSL; a shift by 1 to 31 with its own type and amount, and one by a register with its own type; LSR
#0, ASR #0 and ROR #0 as LSL #0; LSR #32 and ASR #32 with amount 0; RRX as ROR with amount 0; an expression as its
rotated constant, or not at all. A whole line assembles when its operand 2 does, to an instruction with the opcode of
its mnemonic, that operand 2, the registers written, AL for an omitted condition, S as written; for the four tests S =
1 whether an S is written or not, and Rd = 1111 exactly when the P suffix is. (The P suffix and AL are the spec's
general knowledge, logs 8 and 17.) (30_encoding.md R46, 30_encoding.md R54, 30_encoding.md R55.) -/
def Obligations.AssemblerConversions : Prop :=
  (∀ (rm rs : Reg) (n : Nat),
    assembleOp2 (.shifted rm (.byConstant .asl n)) = assembleOp2 (.shifted rm (.byConstant .lsl n)) ∧
    assembleOp2 (.shifted rm (.byRegister .asl rs)) = .ok (.regReg ⟨rs, .lsl, rm⟩)) ∧
  (∀ rm rs : Reg, assembleOp2 (.shifted rm (.byRegister .lsl rs)) = .ok (.regReg ⟨rs, .lsl, rm⟩) ∧
    assembleOp2 (.shifted rm (.byRegister .lsr rs)) = .ok (.regReg ⟨rs, .lsr, rm⟩) ∧
    assembleOp2 (.shifted rm (.byRegister .asr rs)) = .ok (.regReg ⟨rs, .asr, rm⟩) ∧
    assembleOp2 (.shifted rm (.byRegister .ror rs)) = .ok (.regReg ⟨rs, .ror, rm⟩)) ∧
  (∀ (rm : Reg) (n : Nat), 1 ≤ n → n ≤ 31 →
    assembleOp2 (.shifted rm (.byConstant .lsl n)) = .ok (.regImm ⟨BitVec.ofNat 5 n, .lsl, rm⟩) ∧
    assembleOp2 (.shifted rm (.byConstant .lsr n)) = .ok (.regImm ⟨BitVec.ofNat 5 n, .lsr, rm⟩) ∧
    assembleOp2 (.shifted rm (.byConstant .asr n)) = .ok (.regImm ⟨BitVec.ofNat 5 n, .asr, rm⟩) ∧
    assembleOp2 (.shifted rm (.byConstant .ror n)) = .ok (.regImm ⟨BitVec.ofNat 5 n, .ror, rm⟩)) ∧
  (∀ rm : Reg, assembleOp2 (.shifted rm (.byConstant .lsl 0)) = .ok (.regImm ⟨0#5, .lsl, rm⟩) ∧
    assembleOp2 (.shifted rm (.byConstant .lsr 0)) = .ok (.regImm ⟨0#5, .lsl, rm⟩) ∧
    assembleOp2 (.shifted rm (.byConstant .asr 0)) = .ok (.regImm ⟨0#5, .lsl, rm⟩) ∧
    assembleOp2 (.shifted rm (.byConstant .ror 0)) = .ok (.regImm ⟨0#5, .lsl, rm⟩) ∧
    assembleOp2 (.shifted rm (.byConstant .lsr 32)) = .ok (.regImm ⟨0#5, .lsr, rm⟩) ∧
    assembleOp2 (.shifted rm (.byConstant .asr 32)) = .ok (.regImm ⟨0#5, .asr, rm⟩) ∧
    assembleOp2 (.shifted rm .rrx) = .ok (.regImm ⟨0#5, .ror, rm⟩) ∧
    assembleOp2 (.register rm) = .ok (.regImm ⟨0#5, .lsl, rm⟩)) ∧
  (∀ value : Word, (∀ o, assembleConstant value = some o → assembleOp2 (.expression value) = .ok (.imm o)) ∧
    (assembleConstant value = none → assembleOp2 (.expression value) = .error .constantNotRepresentable)) ∧
  (∀ (op : TestName) (c : Option Cond) (s p : Bool) (rn : Reg) (x : Op2Text),
    (∀ i, assemble (.test op c s p rn x) = .ok i →
      i.sBit = true ∧ i.cond = c.getD .al ∧ i.fields.rn = rn ∧ (i.fields.rd = .pc ↔ p = true) ∧
      i.fields.op = opcodeOfTest op ∧ assembleOp2 x = .ok i.fields.op2) ∧
    ∀ o, assembleOp2 x = .ok o → ∃ i, assemble (.test op c s p rn x) = .ok i) ∧
  (∀ (op : BinaryName) (c : Option Cond) (s : Bool) (rd rn : Reg) (x : Op2Text),
    (∀ i, assemble (.binary op c s rd rn x) = .ok i →
      i.sBit = s ∧ i.cond = c.getD .al ∧ i.fields.rn = rn ∧ i.fields.rd = rd ∧
      i.fields.op = opcodeOfBinary op ∧ assembleOp2 x = .ok i.fields.op2) ∧
    ∀ o, assembleOp2 x = .ok o → ∃ i, assemble (.binary op c s rd rn x) = .ok i) ∧
  (∀ (op : MoveName) (c : Option Cond) (s : Bool) (rd : Reg) (x : Op2Text),
    (∀ i, assemble (.move op c s rd x) = .ok i → i.sBit = s ∧ i.cond = c.getD .al ∧ i.fields.rd = rd ∧
      i.fields.op = opcodeOfMove op ∧ assembleOp2 x = .ok i.fields.op2) ∧
    ∀ o, assembleOp2 x = .ok o → ∃ i, assemble (.move op c s rd x) = .ok i)

/-- In every mode R0 to R7 are one copy each; R8 to R12 are their own copies in FIQ mode and one other in the six other
modes; R13 and R14 are one copy for User and System and one each for FIQ, IRQ, Supervisor, Abort and Undefined.
Reading a register in a mode gives that copy and writing one replaces that copy and nothing else. The five exception
modes have an SPSR each, which reading and writing by mode reach; User and System have none. (All of it is the spec's
general knowledge, PRESUMED in log 13; the copies are named one by one.) (10_state.md R13, 10_state.md R19,
93_implementation_defined.md GK3.) -/
def Obligations.EachModeSeesItsCopies : Prop :=
  (∀ (s : State) (m : Mode) (g : Gpr), s.readReg m g = copySeen s.regs m g) ∧
  (∀ (s : State) (m : Mode) (g : Gpr) (v : Word),
    s.regs.set (bank m g) v = copyReplaced s.regs v m g ∧ s.writeReg m g v = { s with regs := copyReplaced s.regs v m g }) ∧
  (∀ f : SpsrFile, f.get .fiq = some f.fiq ∧ f.get .irq = some f.irq ∧ f.get .svc = some f.svc ∧ f.get .abt = some f.abt ∧
    f.get .und = some f.und ∧ f.get .usr = none ∧ f.get .sys = none) ∧
  (∀ (f : SpsrFile) (v : Word), f.set .fiq v = { f with fiq := v } ∧ f.set .irq v = { f with irq := v } ∧
    f.set .svc v = { f with svc := v } ∧ f.set .abt v = { f with abt := v } ∧ f.set .und v = { f with und := v } ∧
    f.set .usr v = f ∧ f.set .sys v = f)

/-- The flags of the machine are CPSR bits 31 (N), 30 (Z), 29 (C) and 28 (V). Writing the flags puts them there and keeps
bits 27 to 0. T is bit 5. The mode is the one whose number stands in bits 4 to 0: 10000 User, 10001 FIQ, 10010 IRQ,
10011 Supervisor, 10111 Abort, 11011 Undefined, 11111 System, and none for any other number. (The places and the
numbers are the spec's general knowledge, PRESUMED in log 12.) (10_state.md R16, 10_state.md R17,
93_implementation_defined.md GK4.) -/
def Obligations.StatusRegisterLayout : Prop :=
  (∀ s : State, s.flags.n = s.cpsr.getLsbD 31 ∧ s.flags.z = s.cpsr.getLsbD 30 ∧ s.flags.c = s.cpsr.getLsbD 29 ∧
    s.flags.v = s.cpsr.getLsbD 28 ∧ s.mode = psrMode s.cpsr) ∧
  (∀ (p : Word) (f : Flags),
    let q := psrWithFlags p f
    q.getLsbD 31 = f.n ∧ q.getLsbD 30 = f.z ∧ q.getLsbD 29 = f.c ∧ q.getLsbD 28 = f.v ∧ q.extractLsb' 0 28 = p.extractLsb' 0 28) ∧
  (∀ p : Word, psrThumb p = p.getLsbD 5) ∧
  (∀ p : Word, psrMode p =
    if p.extractLsb' 0 5 = 0b10000#5 then some .usr
    else if p.extractLsb' 0 5 = 0b10001#5 then some .fiq
    else if p.extractLsb' 0 5 = 0b10010#5 then some .irq
    else if p.extractLsb' 0 5 = 0b10011#5 then some .svc
    else if p.extractLsb' 0 5 = 0b10111#5 then some .abt
    else if p.extractLsb' 0 5 = 0b11011#5 then some .und
    else if p.extractLsb' 0 5 = 0b11111#5 then some .sys
    else none)
end

