-- ==== Sys2Proof/Laws/State.lean ====
section
/-! SUPPORT. One lemma per field of State for each update of it, true by `rfl`, so that no later proof unfolds a
record update. -/

namespace Sys2Proof.Machine

@[simp] theorem State.advance_regs (s : State) : (s.advance).regs = s.regs := rfl
@[simp] theorem State.advance_pc (s : State) : (s.advance).pc = s.pc + 4#32 := rfl
@[simp] theorem State.advance_cpsr (s : State) : (s.advance).cpsr = s.cpsr := rfl
@[simp] theorem State.advance_spsr (s : State) : (s.advance).spsr = s.spsr := rfl
@[simp] theorem State.advance_mem (s : State) : (s.advance).mem = s.mem := rfl
@[simp] theorem State.advance_params (s : State) : (s.advance).params = s.params := rfl

@[simp] theorem State.writeReg_regs (s : State) (m : Mode) (g : Gpr) (v : Word) : (s.writeReg m g v).regs = s.regs.set (bank m g) v := rfl
@[simp] theorem State.writeReg_pc (s : State) (m : Mode) (g : Gpr) (v : Word) : (s.writeReg m g v).pc = s.pc := rfl
@[simp] theorem State.writeReg_cpsr (s : State) (m : Mode) (g : Gpr) (v : Word) : (s.writeReg m g v).cpsr = s.cpsr := rfl
@[simp] theorem State.writeReg_spsr (s : State) (m : Mode) (g : Gpr) (v : Word) : (s.writeReg m g v).spsr = s.spsr := rfl
@[simp] theorem State.writeReg_mem (s : State) (m : Mode) (g : Gpr) (v : Word) : (s.writeReg m g v).mem = s.mem := rfl
@[simp] theorem State.writeReg_params (s : State) (m : Mode) (g : Gpr) (v : Word) : (s.writeReg m g v).params = s.params := rfl

@[simp] theorem State.writeFlags_regs (s : State) (f : Flags) : (s.writeFlags f).regs = s.regs := rfl
@[simp] theorem State.writeFlags_pc (s : State) (f : Flags) : (s.writeFlags f).pc = s.pc := rfl
@[simp] theorem State.writeFlags_cpsr (s : State) (f : Flags) : (s.writeFlags f).cpsr = psrWithFlags s.cpsr f := rfl
@[simp] theorem State.writeFlags_spsr (s : State) (f : Flags) : (s.writeFlags f).spsr = s.spsr := rfl
@[simp] theorem State.writeFlags_mem (s : State) (f : Flags) : (s.writeFlags f).mem = s.mem := rfl
@[simp] theorem State.writeFlags_params (s : State) (f : Flags) : (s.writeFlags f).params = s.params := rfl

@[simp] theorem State.withFetchWord_regs (s : State) (nbits w : Nat) : (s.withFetchWord nbits w).regs = s.regs := rfl
@[simp] theorem State.withFetchWord_pc (s : State) (nbits w : Nat) : (s.withFetchWord nbits w).pc = s.pc := rfl
@[simp] theorem State.withFetchWord_cpsr (s : State) (nbits w : Nat) : (s.withFetchWord nbits w).cpsr = s.cpsr := rfl
@[simp] theorem State.withFetchWord_spsr (s : State) (nbits w : Nat) : (s.withFetchWord nbits w).spsr = s.spsr := rfl
@[simp] theorem State.withFetchWord_mem (s : State) (nbits w : Nat) : (s.withFetchWord nbits w).mem = writeWord s.params.byteOrder s.mem s.pc (BitVec.ofNat 32 (w % 2 ^ nbits)) := rfl
@[simp] theorem State.withFetchWord_params (s : State) (nbits w : Nat) : (s.withFetchWord nbits w).params = s.params := rfl

@[simp] theorem takeException_regs (e : Exception) (a : Word) (s : State) :
    (takeException e a s).regs = s.regs.set (bank (exceptionMode e) .r14) (a + exceptionLinkOffset e) := rfl
@[simp] theorem takeException_pc (e : Exception) (a : Word) (s : State) :
    (takeException e a s).pc = exceptionVector e := rfl
@[simp] theorem takeException_cpsr (e : Exception) (a : Word) (s : State) :
    (takeException e a s).cpsr = exceptionCpsr e s.cpsr := rfl
@[simp] theorem takeException_spsr (e : Exception) (a : Word) (s : State) :
    (takeException e a s).spsr = s.spsr.set (exceptionMode e) s.cpsr := rfl
@[simp] theorem takeException_mem (e : Exception) (a : Word) (s : State) :
    (takeException e a s).mem = s.mem := rfl
@[simp] theorem takeException_params (e : Exception) (a : Word) (s : State) :
    (takeException e a s).params = s.params := rfl

@[simp] theorem State.advance_mode (s : State) : s.advance.mode = s.mode := rfl
@[simp] theorem State.advance_flags (s : State) : s.advance.flags = s.flags := rfl
@[simp] theorem State.writeReg_mode (s : State) (m : Mode) (g : Gpr) (v : Word) : (s.writeReg m g v).mode = s.mode := rfl
@[simp] theorem State.writeReg_flags (s : State) (m : Mode) (g : Gpr) (v : Word) : (s.writeReg m g v).flags = s.flags := rfl

end Sys2Proof.Machine
end

