-- ==== Sys2Proof/Laws/Registers.lean ====
section
/-! SUPPORT. Registers: reading one copy after writing another, the banks, and the saved status registers. -/

namespace Sys2Proof.Machine

/-- One physical register read after another is written. -/
theorem RegFile.get_set (f : RegFile) (p q : PhysReg) (v : Word) :
    (f.set p v).get q = if q = p then v else f.get q := by
  cases p <;> cases q <;> rfl

@[simp] theorem RegFile.get_set_same (f : RegFile) (p : PhysReg) (v : Word) : (f.set p v).get p = v := by
  simp [RegFile.get_set]

theorem RegFile.get_set_ne (f : RegFile) {p q : PhysReg} (v : Word) (h : q ≠ p) : (f.set p v).get q = f.get q := by
  simp [RegFile.get_set, h]

/-- Two register files with the same contents are the same. -/
theorem RegFile.ext_get {f f' : RegFile} (h : ∀ p, f.get p = f'.get p) : f = f' := by
  have all := h
  cases f; cases f'
  simp only [RegFile.mk.injEq]
  exact ⟨all .r0, all .r1, all .r2, all .r3, all .r4, all .r5, all .r6, all .r7, all .r8, all .r9, all .r10, all .r11,
    all .r12, all .r13, all .r14, all .r8fiq, all .r9fiq, all .r10fiq, all .r11fiq, all .r12fiq, all .r13fiq,
    all .r14fiq, all .r13irq, all .r14irq, all .r13svc, all .r14svc, all .r13abt, all .r14abt, all .r13und, all .r14und⟩

/-- In one mode, different registers have different copies. -/
theorem bank_injective (m : Mode) {g h : Gpr} (e : bank m g = bank m h) : g = h := by
  cases m <;> cases g <;> cases h <;> first | rfl | exact absurd e (by decide)

/-- User and System mode see the same copies (10_state.md R13). -/
theorem bank_usr_eq_sys (g : Gpr) : bank .usr g = bank .sys g := by cases g <;> rfl

@[simp] theorem State.readReg_writeReg_same (s : State) (m : Mode) (g : Gpr) (v : Word) :
    (s.writeReg m g v).readReg m g = v := by
  simp [State.readReg]

theorem State.readReg_writeReg_ne (s : State) (m : Mode) {g h : Gpr} (v : Word) (ne : h ≠ g) :
    (s.writeReg m g v).readReg m h = s.readReg m h :=
  RegFile.get_set_ne _ v fun e => ne (bank_injective m e)

/-- An SPSR read after one is written: the mode entered by an exception always has one. -/
theorem SpsrFile.get_set_exceptionMode (f : SpsrFile) (e : Exception) (v : Word) :
    (f.set (exceptionMode e) v).get (exceptionMode e) = some v := by
  cases e <;> rfl

/-- Writing one mode's SPSR leaves every other mode's. -/
theorem SpsrFile.get_set_ne (f : SpsrFile) {m m' : Mode} (v : Word) (h : m' ≠ m) : (f.set m v).get m' = f.get m' := by
  cases m <;> cases m' <;> first | rfl | exact absurd rfl h

end Sys2Proof.Machine
end

