-- ==== Sys2Proof/Laws/Flags.lean ====
section
/-! SUPPORT. Status words: the fields read back after the flags are written, and the adder's flags. -/

namespace Sys2Proof.Machine

/-- Each bit of a status word whose flags are written. -/
theorem psrWithFlags_getLsbD (p : Word) (f : Flags) {i : Nat} (hi : i < 32) :
    (psrWithFlags p f).getLsbD i =
      if i < 28 then p.getLsbD i else if i = 28 then f.v else if i = 29 then f.c else if i = 30 then f.z else f.n := by
  unfold psrWithFlags
  rw [BitVec.getLsbD_append, BitVec.getLsbD_append, BitVec.getLsbD_append, BitVec.getLsbD_append]
  rcases Nat.lt_or_ge i 28 with h | h
  · simp [h, show i < 1 + 28 by omega, show i < 1 + (1 + 28) by omega, show i < 1 + (1 + (1 + 28)) by omega]
  · interval_cases i <;> simp

/-- Writing the flags keeps bits 27 to 0. -/
@[simp] theorem psrWithFlags_low (p : Word) (f : Flags) : (psrWithFlags p f).extractLsb' 0 28 = p.extractLsb' 0 28 := by
  refine BitVec.eq_of_getLsbD_eq fun i hi => ?_
  simp [hi, psrWithFlags_getLsbD p f (show i < 32 by omega)]

/-- Writing the flags, then reading them. -/
@[simp] theorem psrFlags_psrWithFlags (p : Word) (f : Flags) : psrFlags (psrWithFlags p f) = f := by
  simp only [psrFlags, psrWithFlags_getLsbD, Nat.reduceLT, Nat.reduceEqDiff, if_true, if_false]

@[simp] theorem psrThumb_psrWithFlags (p : Word) (f : Flags) : psrThumb (psrWithFlags p f) = psrThumb p := by
  simp only [psrThumb, psrWithFlags_getLsbD, Nat.reduceLT, if_true]

@[simp] theorem psrMode_psrWithFlags (p : Word) (f : Flags) : psrMode (psrWithFlags p f) = psrMode p := by
  have e : (psrWithFlags p f).extractLsb' 0 5 = p.extractLsb' 0 5 := by
    refine BitVec.eq_of_getLsbD_eq fun i hi => ?_
    simp [hi, psrWithFlags_getLsbD p f (show i < 32 by omega), show i < 28 by omega]
  simp [psrMode, e]

@[simp] theorem State.writeFlags_mode (s : State) (f : Flags) : (s.writeFlags f).mode = s.mode := by
  simp [State.mode]

@[simp] theorem State.writeFlags_flags (s : State) (f : Flags) : (s.writeFlags f).flags = f := by
  simp [State.flags]

@[simp] theorem modeOfBits_modeBits (m : Mode) : modeOfBits (modeBits m) = some m := by cases m <;> rfl

/-- Each bit of the CPSR an exception entry writes: M the mode entered, T = 0, F set for FIQ and else kept, I = 1, the
rest kept (60_exceptions.md R144). -/
theorem exceptionCpsr_getLsbD (e : Exception) (p : Word) {i : Nat} (hi : i < 32) :
    (exceptionCpsr e p).getLsbD i =
      if i < 5 then (modeBits (exceptionMode e)).getLsbD i
      else if i = 5 then false
      else if i = 6 then p.getLsbD 6 || e == .fiq
      else if i = 7 then true
      else p.getLsbD i := by
  unfold exceptionCpsr
  rw [BitVec.getLsbD_append, BitVec.getLsbD_append, BitVec.getLsbD_append, BitVec.getLsbD_append]
  interval_cases i <;> simp

/-- The mode of the CPSR an exception entry writes (60_exceptions.md R144). -/
@[simp] theorem psrMode_exceptionCpsr (e : Exception) (p : Word) : psrMode (exceptionCpsr e p) = some (exceptionMode e) := by
  have h : (exceptionCpsr e p).extractLsb' 0 5 = modeBits (exceptionMode e) := by
    refine BitVec.eq_of_getLsbD_eq fun i hi => ?_
    simp [hi, exceptionCpsr_getLsbD e p (show i < 32 by omega)]
  simp [psrMode, h]

/-- An exception entry leaves ARM state (60_exceptions.md R144). -/
@[simp] theorem psrThumb_exceptionCpsr (e : Exception) (p : Word) : psrThumb (exceptionCpsr e p) = false := by
  simp only [psrThumb, exceptionCpsr_getLsbD e p (show 5 < 32 by decide), Nat.lt_irrefl, if_true, if_false]

/-- The result of the adder as a sum of words. -/
theorem addWithCarry_result (a b : Word) (cin : Bool) :
    (addWithCarry a b cin).result = a + b + BitVec.ofNat 32 cin.toNat := by
  simp [addWithCarry, withNZ, BitVec.ofNat_add]

end Sys2Proof.Machine
end

