-- ==== Sys2Proof/Laws/Ops.lean ====
section
/-! SUPPORT. For each shared operation, one lemma that says all it can do when it answers a next state. -/

namespace Sys2Proof.Machine

theorem andThen_next {a : Answer} {f : State → Answer} {t : State} :
    andThen a f = .next t ↔ ∃ s, a = .next s ∧ f s = .next t := by
  cases a <;> simp [andThen]

/-- A jump goes to a word address and changes the pc alone (40_data_processing_common.md R68). -/
theorem jump_next {target : Word} {s t : State} :
    jump target s = .next t ↔ aligned target = true ∧ t = { s with pc := target } := by
  unfold jump
  split
  · next h => simp only [h, Host.Outcome.next.injEq, true_and]; exact eq_comm
  · next h => simp [h]

/-- Copying an SPSR replaces CPSR by an image with a mode number and T = 0 (R69, R70, R74). -/
theorem copySpsr_next {m : Mode} {s t : State} :
    copySpsr m s = .next t ↔
      ∃ saved, s.spsr.get m = some saved ∧ (psrMode saved).isSome ∧ psrThumb saved = false ∧ t = { s with cpsr := saved } := by
  unfold copySpsr
  split
  · next h => simp [h]
  · next saved h =>
    split
    · next h' => simp [h, h']
    · next m' h' => 
      by_cases ht : psrThumb saved = true
      · simp [h, ht]
      · simp only [h, ht, Host.Outcome.next.injEq, Option.some.injEq, if_false, Bool.false_eq_true]
        constructor
        · rintro rfl; exact ⟨saved, rfl, by simp [h'], by simpa using ht, rfl⟩
        · rintro ⟨_, rfl, -, -, rfl⟩; rfl

/-- The return from an exception: from a mode with an SPSR, to a word address, with CPSR restored (R69). -/
theorem returnFromException_next {m : Mode} {target : Word} {s t : State} :
    returnFromException m target s = .next t ↔
      m ≠ .usr ∧ aligned target = true ∧ ∃ saved, s.spsr.get m = some saved ∧ (psrMode saved).isSome ∧
        psrThumb saved = false ∧ t = { s with cpsr := saved, pc := target } := by
  unfold returnFromException
  split
  · next h => simp [h]
  · next h =>
    simp only [andThen_next, copySpsr_next, jump_next]
    constructor
    · rintro ⟨u, ⟨saved, h1, h2, h3, rfl⟩, h4, rfl⟩
      exact ⟨h, h4, saved, h1, h2, h3, rfl⟩
    · rintro ⟨-, h4, saved, h1, h2, h3, rfl⟩
      exact ⟨_, ⟨saved, h1, h2, h3, rfl⟩, h4, rfl⟩

/-- A fetch answers a word from a word address, made of the four bytes there (20_memory.md R31). -/
theorem fetchWord_ok {s : State} {w : Word} :
    fetchWord s = .ok w ↔ aligned s.pc = true ∧ readWord s.params.byteOrder s.mem s.pc = some w := by
  unfold fetchWord
  split
  · next h => split <;> simp_all
  · next h => simp_all

/-- What a step that answers a next state did: it fetched an instruction in ARM state and executed it. -/
theorem step_next {s t : State} :
    step s = .next t ↔
      psrThumb s.cpsr = false ∧ ∃ w i, fetchWord s = .ok w ∧ decodeWord w = .ok i ∧ exec i s = .next t := by
  unfold step
  split
  · next h => simp [h]
  · next h =>
    split
    · next h' => simp [h']
    · next w h' =>
      split
      · next e => simp [h', e]
      · next i e => simp [h, h', e]

end Sys2Proof.Machine
end

