-- ==== Sys2Proof/Laws/DataProcessing.lean ====
section
/-! SUPPORT. Execution seen uniformly: every meaning is one operation on the instruction's fields, and one inversion
lemma says all that a next state can be. -/

namespace Sys2Proof.Machine

/-- The operation an opcode selects; MOV and MVN ignore operand 1. -/
def opcodeAlu (op : Opcode) : Alu :=
  match op with
  | .and | .tst => andAlu
  | .eor | .teq => eorAlu
  | .sub | .cmp => subAlu
  | .rsb => rsbAlu
  | .add | .cmn => addAlu
  | .adc => adcAlu
  | .sbc => sbcAlu
  | .rsc => rscAlu
  | .orr => orrAlu
  | .mov => fun _ sh f => movAlu sh f
  | .bic => bicAlu
  | .mvn => fun _ sh f => mvnAlu sh f

/-- What the operation of an instruction computes in a state and a mode. -/
def fieldsOut (f : Fields) (m : Mode) (s : State) : AluOut :=
  opcodeAlu f.op (readOperandReg s m f.op2 f.rn) (shifter s m f.op2) s.flags

/-- Steps 4 to 6 of 40_data_processing_common.md R62 for any opcode. -/
def finishFields (f : Fields) (m : Mode) (s : State) : Answer :=
  if f.op.isTest then finishTest m (f.op == .teq) f.rd (fieldsOut f m s) s
  else writeResult m f.s f.rd (fieldsOut f m s) s

/-- Every meaning is this one function of the instruction's fields. -/
theorem exec_eq_issue (i : Instr) (s : State) :
    exec i s = issue i.fields.cond i.fields.op2 s fun m => finishFields i.fields m s := by
  cases i <;> rfl

/-- An instruction is well formed exactly when its shift amount is not in R15. -/
theorem wellFormed_eq (i : Instr) : i.wellFormed = !shiftAmountInPc i.fields.op2 := by
  cases i <;> rfl

/-- What one instruction whose condition holds can do when it answers a next state, in a mode. -/
inductive Executes (f : Fields) (m : Mode) (s : State) : State → Prop where
  /-- A result in a general register (R64), the flags with S = 1 (R65, R66), pc + 4 (R71). -/
  | writesRegister (g : Gpr) (write : f.op.isTest = false) (dest : f.rd = .gpr g) :
      Executes f m s
        ((if f.s then (s.writeReg m g (fieldsOut f m s).result).writeFlags (fieldsOut f m s).flags
          else s.writeReg m g (fieldsOut f m s).result).advance)
  /-- A result in R15 (R68). -/
  | jumps (write : f.op.isTest = false) (dest : f.rd = .pc) (sClear : f.s = false)
      (al : aligned (fieldsOut f m s).result = true) : Executes f m s { s with pc := (fieldsOut f m s).result }
  /-- A result in R15 with CPSR restored (R69). -/
  | returns (saved : Word) (write : f.op.isTest = false) (dest : f.rd = .pc) (sSet : f.s = true) (priv : m ≠ .usr)
      (al : aligned (fieldsOut f m s).result = true) (has : s.spsr.get m = some saved) (legal : (psrMode saved).isSome)
      (arm : psrThumb saved = false) : Executes f m s { s with cpsr := saved, pc := (fieldsOut f m s).result }
  /-- The flags alone (R64 to R66). -/
  | testsFlags (g : Gpr) (test : f.op.isTest = true) (dest : f.rd = .gpr g) :
      Executes f m s (s.writeFlags (fieldsOut f m s).flags).advance
  /-- TEQP in User mode (R70). -/
  | teqpInUserMode (teq : f.op = .teq) (dest : f.rd = .pc) (user : m = .usr) : Executes f m s s.advance
  /-- A P form with CPSR restored (R70). -/
  | pForm (saved : Word) (test : f.op.isTest = true) (dest : f.rd = .pc) (priv : m ≠ .usr)
      (has : s.spsr.get m = some saved) (legal : (psrMode saved).isSome) (arm : psrThumb saved = false) :
      Executes f m s { s with cpsr := saved, pc := s.pc + 4#32 }

/-- Writing a result, inverted. -/
theorem writeResult_next {f : Fields} {m : Mode} {s t : State} (write : f.op.isTest = false)
    (h : writeResult m f.s f.rd (fieldsOut f m s) s = .next t) : Executes f m s t := by
  unfold writeResult at h
  split at h
  · next g dest =>
    simp only [Host.Outcome.next.injEq] at h
    exact h ▸ .writesRegister g write dest
  · next dest =>
    split at h
    · next sSet =>
      obtain ⟨priv, al, saved, has, legal, arm, rfl⟩ := returnFromException_next.mp h
      exact .returns saved write dest sSet priv al has legal arm
    · next sClear =>
      obtain ⟨al, rfl⟩ := jump_next.mp h
      exact .jumps write dest (by simpa using sClear) al

/-- Finishing a test, inverted. -/
theorem finishTest_next {f : Fields} {m : Mode} {s t : State} (test : f.op.isTest = true)
    (h : finishTest m (f.op == .teq) f.rd (fieldsOut f m s) s = .next t) : Executes f m s t := by
  unfold finishTest at h
  split at h
  · next g dest =>
    simp only [Host.Outcome.next.injEq] at h
    exact h ▸ .testsFlags g test dest
  · next dest =>
    split at h
    · next user =>
      split at h
      · next teq =>
        simp only [Host.Outcome.next.injEq] at h
        exact h ▸ .teqpInUserMode (by simpa using teq) dest user
      · cases h
    · next priv =>
      obtain ⟨u, hu, ht⟩ := andThen_next.mp h
      obtain ⟨saved, has, legal, arm, rfl⟩ := copySpsr_next.mp hu
      simp only [Host.Outcome.next.injEq] at ht
      exact ht ▸ .pForm saved test dest priv has legal arm

/-- All that an instruction can do when it answers a next state: in a legal mode, with no shift amount in R15, it
advances the pc when its condition fails, and executes when it holds. -/
theorem exec_next {i : Instr} {s t : State} (h : exec i s = .next t) :
    shiftAmountInPc i.fields.op2 = false ∧ ∃ m, s.mode = some m ∧
      ((condHolds i.fields.cond s.flags = false ∧ t = s.advance) ∨
       (condHolds i.fields.cond s.flags = true ∧ Executes i.fields m s t)) := by
  rw [exec_eq_issue] at h
  unfold issue at h
  split at h
  · cases h
  · next hrs =>
    refine ⟨by simpa using hrs, ?_⟩
    split at h
    · cases h
    · next m hm =>
      refine ⟨m, hm, ?_⟩
      split at h
      · next hc =>
        refine .inr ⟨hc, ?_⟩
        unfold finishFields at h
        split at h
        · next test => exact finishTest_next test h
        · next write => exact writeResult_next (by simpa using write) h
      · next hc =>
        simp only [Host.Outcome.next.injEq] at h
        exact .inl ⟨by simpa using hc, h.symm⟩

end Sys2Proof.Machine
end

