-- ==== Sys2Proof/Laws/Decode.lean ====
section
/-! SUPPORT. The small lemmas of the decoder and the encoder: each code read back, each field of an encoded word. -/

namespace Sys2Proof

@[simp] theorem Opcode.ofBits_bits (op : Opcode) : Opcode.ofBits op.bits = op := by cases op <;> rfl

@[simp] theorem Cond.ofBits_bits (c : Cond) : Cond.ofBits c.bits = some c := by cases c <;> rfl

@[simp] theorem ShiftType.ofBits_bits (ty : ShiftType) : ShiftType.ofBits ty.bits = ty := by cases ty <;> rfl

@[simp] theorem Reg.ofBits_bits (r : Reg) : Reg.ofBits r.bits = r := by
  cases r with
  | gpr g => cases g <;> rfl
  | pc => rfl

theorem Opcode.bits_ofBits : ∀ b : BitVec 4, (Opcode.ofBits b).bits = b := by decide

theorem ShiftType.bits_ofBits : ∀ b : BitVec 2, (ShiftType.ofBits b).bits = b := by decide

theorem Reg.bits_ofBits : ∀ b : BitVec 4, (Reg.ofBits b).bits = b := by decide

theorem Cond.bits_ofBits : ∀ (b : BitVec 4) (c : Cond), Cond.ofBits b = some c → c.bits = b := by decide

/-- The four test opcodes are those with 10 in their top two bits (30_encoding.md R50). -/
theorem Opcode.isTest_eq (op : Opcode) : op.isTest = (op.bits.extractLsb' 2 2 == 0b10#2) := by cases op <;> rfl

/-- Each bit of an encoded word (30_encoding.md R41). -/
theorem Fields.word_getLsbD (f : Fields) {i : Nat} (hi : i < 32) :
    f.word.getLsbD i =
      if i < 12 then f.op2.bits.2.getLsbD i
      else if i < 16 then f.rd.bits.getLsbD (i - 12)
      else if i < 20 then f.rn.bits.getLsbD (i - 16)
      else if i < 21 then f.s
      else if i < 25 then f.op.bits.getLsbD (i - 21)
      else if i < 26 then f.op2.bits.1
      else if i < 28 then false
      else f.cond.bits.getLsbD (i - 28) := by
  unfold Fields.word
  rw [BitVec.getLsbD_append, BitVec.getLsbD_append, BitVec.getLsbD_append, BitVec.getLsbD_append, BitVec.getLsbD_append,
    BitVec.getLsbD_append, BitVec.getLsbD_append]
  interval_cases i <;> simp

/-- The fields of a row's instruction, for a word whose test opcode has S = 1. -/
theorem Fields.fields_instr (f : Fields) (h : f.op.isTest = true → f.s = true) : f.instr.fields = f := by
  obtain ⟨op, c, s, rn, rd, o⟩ := f
  cases o <;> cases op <;> first | rfl | (simp only [Opcode.isTest, forall_const] at h; subst h; rfl)

/-- An instruction is its fields. -/
@[simp] theorem Instr.instr_fields (i : Instr) : i.fields.instr = i := by cases i <;> rfl

/-- A test has S = 1 (30_encoding.md R48). -/
theorem Instr.test_sBit (i : Instr) (h : i.fields.op.isTest = true) : i.fields.s = true := by
  cases i <;> first | rfl | exact absurd h Bool.false_ne_true

/-- The operand-2 bits that select the form (30_encoding.md R43, R44). -/
theorem Operand2.bits_form (o : Operand2) :
    match o with
    | .imm _ => o.bits.1 = true
    | .regImm _ => o.bits.1 = false ∧ o.bits.2.getLsbD 4 = false
    | .regReg _ => o.bits.1 = false ∧ o.bits.2.getLsbD 4 = true ∧ o.bits.2.getLsbD 7 = false := by
  cases o with
  | imm o => rfl
  | regImm o =>
    refine ⟨rfl, ?_⟩
    simp only [Operand2.bits]
    rw [BitVec.getLsbD_append, BitVec.getLsbD_append, BitVec.getLsbD_append]
    rfl
  | regReg o =>
    refine ⟨rfl, ?_, ?_⟩ <;> simp only [Operand2.bits] <;>
      rw [BitVec.getLsbD_append, BitVec.getLsbD_append, BitVec.getLsbD_append, BitVec.getLsbD_append] <;> rfl

/-- The bits of a table row's match value: the opcode field moved to bit 21 (30_encoding.md R46). -/
theorem Fields.opcodeField_getLsbD (op : Opcode) {i : Nat} (hi : i < 32) :
    (op.bits.setWidth 32 <<< 21).getLsbD i = (decide (21 ≤ i) && op.bits.getLsbD (i - 21)) := by
  cases op <;> interval_cases i <;> rfl

/-- An encoded word has the bits its row of the opcode table fixes (30_encoding.md R46). -/
theorem Fields.word_and_tableMask (f : Fields) (h : f.op.isTest = true → f.s = true) :
    f.word &&& f.tableMask = f.tableMatch := by
  obtain ⟨op, c, s, rn, rd, o⟩ := f
  have form := Operand2.bits_form o
  have sBit : (op.isTest && s) = op.isTest := by cases ht : op.isTest <;> simp_all
  refine BitVec.eq_of_getLsbD_eq fun i hi => ?_
  cases o <;> simp only [Fields.tableMask, Fields.tableMatch, BitVec.getLsbD_and, BitVec.getLsbD_or,
    Fields.word_getLsbD _ hi, Fields.opcodeField_getLsbD op hi] at form ⊢ <;>
    interval_cases i <;> cases ht : op.isTest <;> simp_all

end Sys2Proof
end

