-- ==== Sys2Proof/Laws/Memory.lean ====
section
/-! SUPPORT. Memory: reading back what was supplied, leaving the rest alone, and the canonical form every operation
keeps. -/

namespace Sys2Proof.Machine

/-- A byte read where it was supplied. -/
@[simp] theorem readByte_writeByte_same (mem : Memory) (a : Nat) (v : Byte) : readByte (writeByte mem a v) a = some v := by
  induction mem with
  | nil => simp [writeByte, readByte]
  | cons c rest ih =>
    obtain ⟨k, b⟩ := c
    by_cases h : a < k
    · simp [writeByte, readByte, h]
    · by_cases e : a = k
      · simp [writeByte, readByte, e]
      · simp [writeByte, readByte, h, e, Ne.symm e, ih]

/-- Every other byte reads as before. -/
theorem readByte_writeByte_ne (mem : Memory) {a x : Nat} (v : Byte) (ne : x ≠ a) :
    readByte (writeByte mem a v) x = readByte mem x := by
  induction mem with
  | nil => simp [writeByte, readByte, Ne.symm ne]
  | cons c rest ih =>
    obtain ⟨k, b⟩ := c
    by_cases h : a < k
    · simp [writeByte, readByte, h, Ne.symm ne]
    · by_cases e : a = k
      · subst e
        simp [writeByte, readByte, Ne.symm ne]
      · simp [writeByte, readByte, h, e, ih]

/-- A smaller lower bound is kept a fortiori. -/
theorem Memory.wfFrom_mono {lo lo' : Nat} {mem : Memory} (le : lo' ≤ lo) (h : Memory.wfFrom lo mem = true) :
    Memory.wfFrom lo' mem = true := by
  cases mem with
  | nil => rfl
  | cons c rest =>
    simp only [Memory.wfFrom, Bool.and_eq_true, decide_eq_true_eq] at h ⊢
    exact ⟨⟨le_trans le h.1.1, h.1.2⟩, h.2⟩

/-- Supplying a byte inside the address space keeps the canonical form. -/
theorem writeByte_keeps_wfFrom {mem : Memory} {lo a : Nat} (v : Byte) (ha : lo ≤ a) (hlt : a < 2 ^ 32)
    (h : Memory.wfFrom lo mem = true) : Memory.wfFrom lo (writeByte mem a v) = true := by
  induction mem generalizing lo with
  | nil => simpa [writeByte, Memory.wfFrom, ha] using hlt
  | cons c rest ih =>
    obtain ⟨k, b⟩ := c
    simp only [Memory.wfFrom, Bool.and_eq_true, decide_eq_true_eq] at h
    obtain ⟨⟨hlo, hk⟩, hrest⟩ := h
    unfold writeByte
    split
    · simp only [Memory.wfFrom, Bool.and_eq_true, decide_eq_true_eq]
      exact ⟨⟨ha, hlt⟩, ⟨by omega, hk⟩, hrest⟩
    · split
      · next _ e => subst e; simpa [Memory.wfFrom, ha, hrest] using hlt
      · simp only [Memory.wfFrom, Bool.and_eq_true, decide_eq_true_eq]
        exact ⟨⟨hlo, hk⟩, ih (by omega) hrest⟩

theorem byteAddr_lt (a : Word) (k : Fin 4) : byteAddr a k < 2 ^ 32 := (a + BitVec.ofNat 32 k.val).isLt

theorem writeByte_keeps_wf {mem : Memory} (a : Word) (k : Fin 4) (v : Byte) (h : Memory.wf mem = true) :
    Memory.wf (writeByte mem (byteAddr a k) v) = true :=
  writeByte_keeps_wfFrom v (Nat.zero_le _) (byteAddr_lt a k) h

/-- Supplying a word keeps the canonical form. -/
theorem writeWord_keeps_wf {mem : Memory} (ord : ByteOrder) (a w : Word) (h : Memory.wf mem = true) :
    Memory.wf (writeWord ord mem a w) = true :=
  writeByte_keeps_wf a 3 _ (writeByte_keeps_wf a 2 _ (writeByte_keeps_wf a 1 _ (writeByte_keeps_wf a 0 _ h)))

/-- Supplying a program keeps the canonical form. -/
theorem loadProgram_keeps_wf (ord : ByteOrder) (ws : List Word) {mem : Memory} (base : Word)
    (h : Memory.wf mem = true) : Memory.wf (loadProgram ord mem base ws) = true := by
  induction ws generalizing mem base with
  | nil => exact h
  | cons w ws ih => exact ih _ (writeWord_keeps_wf ord base w h)

/-- Placing a word for the next fetch keeps the canonical form. -/
theorem withFetchWord_keeps_wf (s : State) (nbits w : Nat) (h : Memory.wf s.mem = true) :
    Memory.wf (s.withFetchWord nbits w).mem = true :=
  writeWord_keeps_wf _ _ _ h

/-- The four byte addresses of a word differ. -/
theorem byteAddr_injective (a : Word) {j k : Fin 4} (e : byteAddr a j = byteAddr a k) : j = k := by
  have h : a + BitVec.ofNat 32 j.val = a + BitVec.ofNat 32 k.val := BitVec.eq_of_toNat_eq e
  have hj := j.isLt
  have hk := k.isLt
  have : BitVec.ofNat 32 j.val = BitVec.ofNat 32 k.val := by simpa using h
  have := congrArg BitVec.toNat this
  simp only [BitVec.toNat_ofNat] at this
  omega

/-- The bytes of a word spell it, in either order. -/
theorem wordOfBytes_wordByte (ord : ByteOrder) (w : Word) :
    wordOfBytes ord (wordByte ord w 0) (wordByte ord w 1) (wordByte ord w 2) (wordByte ord w 3) = w := by
  refine BitVec.eq_of_getLsbD_eq fun i hi => ?_
  cases ord <;> simp only [wordOfBytes, wordByte] <;>
    (rw [BitVec.getLsbD_append, BitVec.getLsbD_append, BitVec.getLsbD_append]; interval_cases i <;> simp)

/-- A word supplied at an address is the word read there (20_memory.md R31). -/
theorem readWord_writeWord (ord : ByteOrder) (mem : Memory) (a w : Word) :
    readWord ord (writeWord ord mem a w) a = some w := by
  have ne : ∀ {j k : Fin 4}, j ≠ k → byteAddr a j ≠ byteAddr a k := fun h e => h (byteAddr_injective a e)
  have h0 : readByte (writeWord ord mem a w) (byteAddr a 0) = some (wordByte ord w 0) := by
    simp [writeWord, readByte_writeByte_ne _ _ (ne (show (0 : Fin 4) ≠ 1 by decide)),
      readByte_writeByte_ne _ _ (ne (show (0 : Fin 4) ≠ 2 by decide)), readByte_writeByte_ne _ _ (ne (show (0 : Fin 4) ≠ 3 by decide))]
  have h1 : readByte (writeWord ord mem a w) (byteAddr a 1) = some (wordByte ord w 1) := by
    simp [writeWord, readByte_writeByte_ne _ _ (ne (show (1 : Fin 4) ≠ 2 by decide)),
      readByte_writeByte_ne _ _ (ne (show (1 : Fin 4) ≠ 3 by decide))]
  have h2 : readByte (writeWord ord mem a w) (byteAddr a 2) = some (wordByte ord w 2) := by
    simp [writeWord, readByte_writeByte_ne _ _ (ne (show (2 : Fin 4) ≠ 3 by decide))]
  have h3 : readByte (writeWord ord mem a w) (byteAddr a 3) = some (wordByte ord w 3) := by simp [writeWord]
  simp [readWord, h0, h1, h2, h3, wordOfBytes_wordByte]

/-- Every byte outside the word supplied reads as before. -/
theorem readByte_writeWord_ne (ord : ByteOrder) (mem : Memory) (a w : Word) {x : Nat} (h : ∀ k, x ≠ byteAddr a k) :
    readByte (writeWord ord mem a w) x = readByte mem x := by
  simp [writeWord, readByte_writeByte_ne _ _ (h 0), readByte_writeByte_ne _ _ (h 1), readByte_writeByte_ne _ _ (h 2),
    readByte_writeByte_ne _ _ (h 3)]

end Sys2Proof.Machine
end

