-- ==== Sys2Proof/Laws/Operands.lean ====
section
/-! SUPPORT. Operand reads and the shifter: what each form reads, and the range of an amount. -/

namespace Sys2Proof.Machine

@[simp] theorem readOperandReg_gpr (s : State) (m : Mode) (o : Operand2) (g : Gpr) :
    readOperandReg s m o (.gpr g) = s.readReg m g := rfl

@[simp] theorem shifter_imm (s : State) (m : Mode) (o : ImmOperand) : shifter s m (.imm o) = immShift o s.flags.c := rfl

@[simp] theorem shifter_regImm (s : State) (m : Mode) (o : ShiftImmOperand) :
    shifter s m (.regImm o) = shiftByImm o.ty (readOperandReg s m (.regImm o) o.rm) o.amount s.flags.c := rfl

@[simp] theorem shifter_regReg (s : State) (m : Mode) (o : ShiftRegOperand) :
    shifter s m (.regReg o) = shiftByReg o.ty (readOperandReg s m (.regReg o) o.rm)
      (rsAmount s.params.rsAmountByte (readOperandReg s m (.regReg o) o.rs)) s.flags.c := rfl

/-- A register-specified amount is 0 to 255 (41_operand2_shifter.md R91). -/
theorem rsAmount_le (p : RsAmountByte) (v : Word) : rsAmount p v ≤ 255 := by
  cases p <;> simp only [rsAmount] <;> exact Nat.le_of_lt_succ (BitVec.isLt _)

/-- A reduced rotation amount is 1 to 32 (41_operand2_shifter.md R97). -/
theorem reduceRotation_range (n : Nat) : 1 ≤ reduceRotation n ∧ reduceRotation n ≤ 32 := by
  unfold reduceRotation; omega

/-- Operands and the shifter read the registers, the pc, C and the parameters, and no memory and no SPSR. -/
theorem readOperandReg_mem (s : State) (m : Mode) (o : Operand2) (r : Reg) (mem : Memory) :
    readOperandReg { s with mem := mem } m o r = readOperandReg s m o r := by
  cases r <;> rfl

theorem shifter_mem (s : State) (m : Mode) (o : Operand2) (mem : Memory) :
    shifter { s with mem := mem } m o = shifter s m o := by
  cases o <;> simp only [shifter, readOperandReg_mem] <;> rfl

end Sys2Proof.Machine
end

