-- ==== Sys2Proof/Laws/PerInstr.lean ====
section
/-! SUPPORT. The family `MatchesTable`: every instruction's word has the bits its row of spec/opcode_table.json fixes. -/

namespace Sys2Proof.Laws

/-- The word of an instruction, masked, is the match value of its row (30_encoding.md R46). -/
def MatchesTable.Statement (i : Instr) : Prop := encode i &&& i.fields.tableMask = i.fields.tableMatch

theorem MatchesTable.andImm (c : Cond) (s : Bool) (rn rd : Reg) (o : ImmOperand) : MatchesTable.Statement (.andImm c s rn rd o) :=
  Fields.word_and_tableMask _ (Instr.test_sBit (.andImm c s rn rd o))

theorem MatchesTable.eorImm (c : Cond) (s : Bool) (rn rd : Reg) (o : ImmOperand) : MatchesTable.Statement (.eorImm c s rn rd o) :=
  Fields.word_and_tableMask _ (Instr.test_sBit (.eorImm c s rn rd o))

theorem MatchesTable.subImm (c : Cond) (s : Bool) (rn rd : Reg) (o : ImmOperand) : MatchesTable.Statement (.subImm c s rn rd o) :=
  Fields.word_and_tableMask _ (Instr.test_sBit (.subImm c s rn rd o))

theorem MatchesTable.rsbImm (c : Cond) (s : Bool) (rn rd : Reg) (o : ImmOperand) : MatchesTable.Statement (.rsbImm c s rn rd o) :=
  Fields.word_and_tableMask _ (Instr.test_sBit (.rsbImm c s rn rd o))

theorem MatchesTable.addImm (c : Cond) (s : Bool) (rn rd : Reg) (o : ImmOperand) : MatchesTable.Statement (.addImm c s rn rd o) :=
  Fields.word_and_tableMask _ (Instr.test_sBit (.addImm c s rn rd o))

theorem MatchesTable.adcImm (c : Cond) (s : Bool) (rn rd : Reg) (o : ImmOperand) : MatchesTable.Statement (.adcImm c s rn rd o) :=
  Fields.word_and_tableMask _ (Instr.test_sBit (.adcImm c s rn rd o))

theorem MatchesTable.sbcImm (c : Cond) (s : Bool) (rn rd : Reg) (o : ImmOperand) : MatchesTable.Statement (.sbcImm c s rn rd o) :=
  Fields.word_and_tableMask _ (Instr.test_sBit (.sbcImm c s rn rd o))

theorem MatchesTable.rscImm (c : Cond) (s : Bool) (rn rd : Reg) (o : ImmOperand) : MatchesTable.Statement (.rscImm c s rn rd o) :=
  Fields.word_and_tableMask _ (Instr.test_sBit (.rscImm c s rn rd o))

theorem MatchesTable.tstImm (c : Cond) (rn rd : Reg) (o : ImmOperand) : MatchesTable.Statement (.tstImm c rn rd o) :=
  Fields.word_and_tableMask _ (Instr.test_sBit (.tstImm c rn rd o))

theorem MatchesTable.teqImm (c : Cond) (rn rd : Reg) (o : ImmOperand) : MatchesTable.Statement (.teqImm c rn rd o) :=
  Fields.word_and_tableMask _ (Instr.test_sBit (.teqImm c rn rd o))

theorem MatchesTable.cmpImm (c : Cond) (rn rd : Reg) (o : ImmOperand) : MatchesTable.Statement (.cmpImm c rn rd o) :=
  Fields.word_and_tableMask _ (Instr.test_sBit (.cmpImm c rn rd o))

theorem MatchesTable.cmnImm (c : Cond) (rn rd : Reg) (o : ImmOperand) : MatchesTable.Statement (.cmnImm c rn rd o) :=
  Fields.word_and_tableMask _ (Instr.test_sBit (.cmnImm c rn rd o))

theorem MatchesTable.orrImm (c : Cond) (s : Bool) (rn rd : Reg) (o : ImmOperand) : MatchesTable.Statement (.orrImm c s rn rd o) :=
  Fields.word_and_tableMask _ (Instr.test_sBit (.orrImm c s rn rd o))

theorem MatchesTable.movImm (c : Cond) (s : Bool) (rn rd : Reg) (o : ImmOperand) : MatchesTable.Statement (.movImm c s rn rd o) :=
  Fields.word_and_tableMask _ (Instr.test_sBit (.movImm c s rn rd o))

theorem MatchesTable.bicImm (c : Cond) (s : Bool) (rn rd : Reg) (o : ImmOperand) : MatchesTable.Statement (.bicImm c s rn rd o) :=
  Fields.word_and_tableMask _ (Instr.test_sBit (.bicImm c s rn rd o))

theorem MatchesTable.mvnImm (c : Cond) (s : Bool) (rn rd : Reg) (o : ImmOperand) : MatchesTable.Statement (.mvnImm c s rn rd o) :=
  Fields.word_and_tableMask _ (Instr.test_sBit (.mvnImm c s rn rd o))

theorem MatchesTable.andRegImm (c : Cond) (s : Bool) (rn rd : Reg) (o : ShiftImmOperand) : MatchesTable.Statement (.andRegImm c s rn rd o) :=
  Fields.word_and_tableMask _ (Instr.test_sBit (.andRegImm c s rn rd o))

theorem MatchesTable.eorRegImm (c : Cond) (s : Bool) (rn rd : Reg) (o : ShiftImmOperand) : MatchesTable.Statement (.eorRegImm c s rn rd o) :=
  Fields.word_and_tableMask _ (Instr.test_sBit (.eorRegImm c s rn rd o))

theorem MatchesTable.subRegImm (c : Cond) (s : Bool) (rn rd : Reg) (o : ShiftImmOperand) : MatchesTable.Statement (.subRegImm c s rn rd o) :=
  Fields.word_and_tableMask _ (Instr.test_sBit (.subRegImm c s rn rd o))

theorem MatchesTable.rsbRegImm (c : Cond) (s : Bool) (rn rd : Reg) (o : ShiftImmOperand) : MatchesTable.Statement (.rsbRegImm c s rn rd o) :=
  Fields.word_and_tableMask _ (Instr.test_sBit (.rsbRegImm c s rn rd o))

theorem MatchesTable.addRegImm (c : Cond) (s : Bool) (rn rd : Reg) (o : ShiftImmOperand) : MatchesTable.Statement (.addRegImm c s rn rd o) :=
  Fields.word_and_tableMask _ (Instr.test_sBit (.addRegImm c s rn rd o))

theorem MatchesTable.adcRegImm (c : Cond) (s : Bool) (rn rd : Reg) (o : ShiftImmOperand) : MatchesTable.Statement (.adcRegImm c s rn rd o) :=
  Fields.word_and_tableMask _ (Instr.test_sBit (.adcRegImm c s rn rd o))

theorem MatchesTable.sbcRegImm (c : Cond) (s : Bool) (rn rd : Reg) (o : ShiftImmOperand) : MatchesTable.Statement (.sbcRegImm c s rn rd o) :=
  Fields.word_and_tableMask _ (Instr.test_sBit (.sbcRegImm c s rn rd o))

theorem MatchesTable.rscRegImm (c : Cond) (s : Bool) (rn rd : Reg) (o : ShiftImmOperand) : MatchesTable.Statement (.rscRegImm c s rn rd o) :=
  Fields.word_and_tableMask _ (Instr.test_sBit (.rscRegImm c s rn rd o))

theorem MatchesTable.tstRegImm (c : Cond) (rn rd : Reg) (o : ShiftImmOperand) : MatchesTable.Statement (.tstRegImm c rn rd o) :=
  Fields.word_and_tableMask _ (Instr.test_sBit (.tstRegImm c rn rd o))

theorem MatchesTable.teqRegImm (c : Cond) (rn rd : Reg) (o : ShiftImmOperand) : MatchesTable.Statement (.teqRegImm c rn rd o) :=
  Fields.word_and_tableMask _ (Instr.test_sBit (.teqRegImm c rn rd o))

theorem MatchesTable.cmpRegImm (c : Cond) (rn rd : Reg) (o : ShiftImmOperand) : MatchesTable.Statement (.cmpRegImm c rn rd o) :=
  Fields.word_and_tableMask _ (Instr.test_sBit (.cmpRegImm c rn rd o))

theorem MatchesTable.cmnRegImm (c : Cond) (rn rd : Reg) (o : ShiftImmOperand) : MatchesTable.Statement (.cmnRegImm c rn rd o) :=
  Fields.word_and_tableMask _ (Instr.test_sBit (.cmnRegImm c rn rd o))

theorem MatchesTable.orrRegImm (c : Cond) (s : Bool) (rn rd : Reg) (o : ShiftImmOperand) : MatchesTable.Statement (.orrRegImm c s rn rd o) :=
  Fields.word_and_tableMask _ (Instr.test_sBit (.orrRegImm c s rn rd o))

theorem MatchesTable.movRegImm (c : Cond) (s : Bool) (rn rd : Reg) (o : ShiftImmOperand) : MatchesTable.Statement (.movRegImm c s rn rd o) :=
  Fields.word_and_tableMask _ (Instr.test_sBit (.movRegImm c s rn rd o))

theorem MatchesTable.bicRegImm (c : Cond) (s : Bool) (rn rd : Reg) (o : ShiftImmOperand) : MatchesTable.Statement (.bicRegImm c s rn rd o) :=
  Fields.word_and_tableMask _ (Instr.test_sBit (.bicRegImm c s rn rd o))

theorem MatchesTable.mvnRegImm (c : Cond) (s : Bool) (rn rd : Reg) (o : ShiftImmOperand) : MatchesTable.Statement (.mvnRegImm c s rn rd o) :=
  Fields.word_and_tableMask _ (Instr.test_sBit (.mvnRegImm c s rn rd o))

theorem MatchesTable.andRegReg (c : Cond) (s : Bool) (rn rd : Reg) (o : ShiftRegOperand) : MatchesTable.Statement (.andRegReg c s rn rd o) :=
  Fields.word_and_tableMask _ (Instr.test_sBit (.andRegReg c s rn rd o))

theorem MatchesTable.eorRegReg (c : Cond) (s : Bool) (rn rd : Reg) (o : ShiftRegOperand) : MatchesTable.Statement (.eorRegReg c s rn rd o) :=
  Fields.word_and_tableMask _ (Instr.test_sBit (.eorRegReg c s rn rd o))

theorem MatchesTable.subRegReg (c : Cond) (s : Bool) (rn rd : Reg) (o : ShiftRegOperand) : MatchesTable.Statement (.subRegReg c s rn rd o) :=
  Fields.word_and_tableMask _ (Instr.test_sBit (.subRegReg c s rn rd o))

theorem MatchesTable.rsbRegReg (c : Cond) (s : Bool) (rn rd : Reg) (o : ShiftRegOperand) : MatchesTable.Statement (.rsbRegReg c s rn rd o) :=
  Fields.word_and_tableMask _ (Instr.test_sBit (.rsbRegReg c s rn rd o))

theorem MatchesTable.addRegReg (c : Cond) (s : Bool) (rn rd : Reg) (o : ShiftRegOperand) : MatchesTable.Statement (.addRegReg c s rn rd o) :=
  Fields.word_and_tableMask _ (Instr.test_sBit (.addRegReg c s rn rd o))

theorem MatchesTable.adcRegReg (c : Cond) (s : Bool) (rn rd : Reg) (o : ShiftRegOperand) : MatchesTable.Statement (.adcRegReg c s rn rd o) :=
  Fields.word_and_tableMask _ (Instr.test_sBit (.adcRegReg c s rn rd o))

theorem MatchesTable.sbcRegReg (c : Cond) (s : Bool) (rn rd : Reg) (o : ShiftRegOperand) : MatchesTable.Statement (.sbcRegReg c s rn rd o) :=
  Fields.word_and_tableMask _ (Instr.test_sBit (.sbcRegReg c s rn rd o))

theorem MatchesTable.rscRegReg (c : Cond) (s : Bool) (rn rd : Reg) (o : ShiftRegOperand) : MatchesTable.Statement (.rscRegReg c s rn rd o) :=
  Fields.word_and_tableMask _ (Instr.test_sBit (.rscRegReg c s rn rd o))

theorem MatchesTable.tstRegReg (c : Cond) (rn rd : Reg) (o : ShiftRegOperand) : MatchesTable.Statement (.tstRegReg c rn rd o) :=
  Fields.word_and_tableMask _ (Instr.test_sBit (.tstRegReg c rn rd o))

theorem MatchesTable.teqRegReg (c : Cond) (rn rd : Reg) (o : ShiftRegOperand) : MatchesTable.Statement (.teqRegReg c rn rd o) :=
  Fields.word_and_tableMask _ (Instr.test_sBit (.teqRegReg c rn rd o))

theorem MatchesTable.cmpRegReg (c : Cond) (rn rd : Reg) (o : ShiftRegOperand) : MatchesTable.Statement (.cmpRegReg c rn rd o) :=
  Fields.word_and_tableMask _ (Instr.test_sBit (.cmpRegReg c rn rd o))

theorem MatchesTable.cmnRegReg (c : Cond) (rn rd : Reg) (o : ShiftRegOperand) : MatchesTable.Statement (.cmnRegReg c rn rd o) :=
  Fields.word_and_tableMask _ (Instr.test_sBit (.cmnRegReg c rn rd o))

theorem MatchesTable.orrRegReg (c : Cond) (s : Bool) (rn rd : Reg) (o : ShiftRegOperand) : MatchesTable.Statement (.orrRegReg c s rn rd o) :=
  Fields.word_and_tableMask _ (Instr.test_sBit (.orrRegReg c s rn rd o))

theorem MatchesTable.movRegReg (c : Cond) (s : Bool) (rn rd : Reg) (o : ShiftRegOperand) : MatchesTable.Statement (.movRegReg c s rn rd o) :=
  Fields.word_and_tableMask _ (Instr.test_sBit (.movRegReg c s rn rd o))

theorem MatchesTable.bicRegReg (c : Cond) (s : Bool) (rn rd : Reg) (o : ShiftRegOperand) : MatchesTable.Statement (.bicRegReg c s rn rd o) :=
  Fields.word_and_tableMask _ (Instr.test_sBit (.bicRegReg c s rn rd o))

theorem MatchesTable.mvnRegReg (c : Cond) (s : Bool) (rn rd : Reg) (o : ShiftRegOperand) : MatchesTable.Statement (.mvnRegReg c s rn rd o) :=
  Fields.word_and_tableMask _ (Instr.test_sBit (.mvnRegReg c s rn rd o))

end Sys2Proof.Laws
end

