-- ==== Sys2Proof/Tests/Slice0.lean ====
section
/-! SUPPORT. The model's own tests: small theorems on one word or one step, each evaluated by `decide`. Expected values
come from the tables of spec/95_test_vectors.md (the vector's name stands in the comment) or were computed by hand from
the rules named. The witnesses at the end show, for every statement with hypotheses, a state and operands that meet
them. -/

namespace Sys2Proof.Tests

open Sys2Proof Sys2Proof.Machine Sys2Proof.Spec

/-! ### Well-formedness: the one check refuses Rs = R15 (10_state.md R12) -/

theorem test_illformed_and :
    (Instr.andRegReg .al false (.gpr .r1) (.gpr .r0) ⟨.pc, .lsl, .gpr .r2⟩).wellFormed = false ∧
    (Instr.andRegReg .al false .pc .pc ⟨.gpr .r3, .lsl, .pc⟩).wellFormed = true := by decide
theorem test_illformed_eor :
    (Instr.eorRegReg .al false (.gpr .r1) (.gpr .r0) ⟨.pc, .lsl, .gpr .r2⟩).wellFormed = false ∧
    (Instr.eorRegReg .al false .pc .pc ⟨.gpr .r3, .lsl, .pc⟩).wellFormed = true := by decide
theorem test_illformed_sub :
    (Instr.subRegReg .al false (.gpr .r1) (.gpr .r0) ⟨.pc, .lsl, .gpr .r2⟩).wellFormed = false ∧
    (Instr.subRegReg .al false .pc .pc ⟨.gpr .r3, .lsl, .pc⟩).wellFormed = true := by decide
theorem test_illformed_rsb :
    (Instr.rsbRegReg .al false (.gpr .r1) (.gpr .r0) ⟨.pc, .lsl, .gpr .r2⟩).wellFormed = false ∧
    (Instr.rsbRegReg .al false .pc .pc ⟨.gpr .r3, .lsl, .pc⟩).wellFormed = true := by decide
theorem test_illformed_add :
    (Instr.addRegReg .al false (.gpr .r1) (.gpr .r0) ⟨.pc, .lsl, .gpr .r2⟩).wellFormed = false ∧
    (Instr.addRegReg .al false .pc .pc ⟨.gpr .r3, .lsl, .pc⟩).wellFormed = true := by decide
theorem test_illformed_adc :
    (Instr.adcRegReg .al false (.gpr .r1) (.gpr .r0) ⟨.pc, .lsl, .gpr .r2⟩).wellFormed = false ∧
    (Instr.adcRegReg .al false .pc .pc ⟨.gpr .r3, .lsl, .pc⟩).wellFormed = true := by decide
theorem test_illformed_sbc :
    (Instr.sbcRegReg .al false (.gpr .r1) (.gpr .r0) ⟨.pc, .lsl, .gpr .r2⟩).wellFormed = false ∧
    (Instr.sbcRegReg .al false .pc .pc ⟨.gpr .r3, .lsl, .pc⟩).wellFormed = true := by decide
theorem test_illformed_rsc :
    (Instr.rscRegReg .al false (.gpr .r1) (.gpr .r0) ⟨.pc, .lsl, .gpr .r2⟩).wellFormed = false ∧
    (Instr.rscRegReg .al false .pc .pc ⟨.gpr .r3, .lsl, .pc⟩).wellFormed = true := by decide
theorem test_illformed_tst :
    (Instr.tstRegReg .al (.gpr .r1) (.gpr .r0) ⟨.pc, .lsl, .gpr .r2⟩).wellFormed = false ∧
    (Instr.tstRegReg .al .pc .pc ⟨.gpr .r3, .lsl, .pc⟩).wellFormed = true := by decide
theorem test_illformed_teq :
    (Instr.teqRegReg .al (.gpr .r1) (.gpr .r0) ⟨.pc, .lsl, .gpr .r2⟩).wellFormed = false ∧
    (Instr.teqRegReg .al .pc .pc ⟨.gpr .r3, .lsl, .pc⟩).wellFormed = true := by decide
theorem test_illformed_cmp :
    (Instr.cmpRegReg .al (.gpr .r1) (.gpr .r0) ⟨.pc, .lsl, .gpr .r2⟩).wellFormed = false ∧
    (Instr.cmpRegReg .al .pc .pc ⟨.gpr .r3, .lsl, .pc⟩).wellFormed = true := by decide
theorem test_illformed_cmn :
    (Instr.cmnRegReg .al (.gpr .r1) (.gpr .r0) ⟨.pc, .lsl, .gpr .r2⟩).wellFormed = false ∧
    (Instr.cmnRegReg .al .pc .pc ⟨.gpr .r3, .lsl, .pc⟩).wellFormed = true := by decide
theorem test_illformed_orr :
    (Instr.orrRegReg .al false (.gpr .r1) (.gpr .r0) ⟨.pc, .lsl, .gpr .r2⟩).wellFormed = false ∧
    (Instr.orrRegReg .al false .pc .pc ⟨.gpr .r3, .lsl, .pc⟩).wellFormed = true := by decide
theorem test_illformed_mov :
    (Instr.movRegReg .al false (.gpr .r1) (.gpr .r0) ⟨.pc, .lsl, .gpr .r2⟩).wellFormed = false ∧
    (Instr.movRegReg .al false .pc .pc ⟨.gpr .r3, .lsl, .pc⟩).wellFormed = true := by decide
theorem test_illformed_bic :
    (Instr.bicRegReg .al false (.gpr .r1) (.gpr .r0) ⟨.pc, .lsl, .gpr .r2⟩).wellFormed = false ∧
    (Instr.bicRegReg .al false .pc .pc ⟨.gpr .r3, .lsl, .pc⟩).wellFormed = true := by decide
theorem test_illformed_mvn :
    (Instr.mvnRegReg .al false (.gpr .r1) (.gpr .r0) ⟨.pc, .lsl, .gpr .r2⟩).wellFormed = false ∧
    (Instr.mvnRegReg .al false .pc .pc ⟨.gpr .r3, .lsl, .pc⟩).wellFormed = true := by decide

/-! ### Decoding: each row's word written out field by field (30_encoding.md R41 to R46): cond, 00, I, opcode, S, Rn, Rd
and operand 2 -/

theorem test_decode_and :
    decodeWord (0b0000#4 ++ 0b00#2 ++ 0b1#1 ++ 0b0000#4 ++ 0b0#1 ++ 0b0001#4 ++ 0b0110#4 ++ 0b0101#4 ++ 0b10000001#8) =
      .ok (.andImm .eq false (.gpr .r1) (.gpr .r6) ⟨5#4, 129#8⟩) ∧
    decodeWord (0b0101#4 ++ 0b00#2 ++ 0b0#1 ++ 0b0000#4 ++ 0b1#1 ++ 0b0110#4 ++ 0b0001#4 ++ 0b10001#5 ++ 0b00#2 ++ 0b0#1 ++ 0b1011#4) =
      .ok (.andRegImm .pl true (.gpr .r6) (.gpr .r1) ⟨17#5, .lsl, .gpr .r11⟩) ∧
    decodeWord (0b1010#4 ++ 0b00#2 ++ 0b0#1 ++ 0b0000#4 ++ 0b0#1 ++ 0b1111#4 ++ 0b0110#4 ++ 0b0011#4 ++ 0b0#1 ++ 0b00#2 ++ 0b1#1 ++ 0b1011#4) =
      .ok (.andRegReg .ge false .pc (.gpr .r6) ⟨.gpr .r3, .lsl, .gpr .r11⟩) := by decide
theorem test_decode_eor :
    decodeWord (0b0001#4 ++ 0b00#2 ++ 0b1#1 ++ 0b0001#4 ++ 0b1#1 ++ 0b0010#4 ++ 0b0111#4 ++ 0b1100#4 ++ 0b10100110#8) =
      .ok (.eorImm .ne true (.gpr .r2) (.gpr .r7) ⟨12#4, 166#8⟩) ∧
    decodeWord (0b0110#4 ++ 0b00#2 ++ 0b0#1 ++ 0b0001#4 ++ 0b0#1 ++ 0b0111#4 ++ 0b0010#4 ++ 0b11100#5 ++ 0b01#2 ++ 0b0#1 ++ 0b1100#4) =
      .ok (.eorRegImm .vs false (.gpr .r7) (.gpr .r2) ⟨28#5, .lsr, .gpr .r12⟩) ∧
    decodeWord (0b1011#4 ++ 0b00#2 ++ 0b0#1 ++ 0b0001#4 ++ 0b1#1 ++ 0b1111#4 ++ 0b0111#4 ++ 0b0100#4 ++ 0b0#1 ++ 0b00#2 ++ 0b1#1 ++ 0b1100#4) =
      .ok (.eorRegReg .lt true .pc (.gpr .r7) ⟨.gpr .r4, .lsl, .gpr .r12⟩) := by decide
theorem test_decode_sub :
    decodeWord (0b0010#4 ++ 0b00#2 ++ 0b1#1 ++ 0b0010#4 ++ 0b0#1 ++ 0b0011#4 ++ 0b1000#4 ++ 0b0011#4 ++ 0b11001011#8) =
      .ok (.subImm .cs false (.gpr .r3) (.gpr .r8) ⟨3#4, 203#8⟩) ∧
    decodeWord (0b0111#4 ++ 0b00#2 ++ 0b0#1 ++ 0b0010#4 ++ 0b1#1 ++ 0b1000#4 ++ 0b0011#4 ++ 0b00111#5 ++ 0b10#2 ++ 0b0#1 ++ 0b1101#4) =
      .ok (.subRegImm .vc true (.gpr .r8) (.gpr .r3) ⟨7#5, .asr, .gpr .r13⟩) ∧
    decodeWord (0b1100#4 ++ 0b00#2 ++ 0b0#1 ++ 0b0010#4 ++ 0b0#1 ++ 0b1111#4 ++ 0b1000#4 ++ 0b0101#4 ++ 0b0#1 ++ 0b00#2 ++ 0b1#1 ++ 0b1101#4) =
      .ok (.subRegReg .gt false .pc (.gpr .r8) ⟨.gpr .r5, .lsl, .gpr .r13⟩) := by decide
theorem test_decode_rsb :
    decodeWord (0b0011#4 ++ 0b00#2 ++ 0b1#1 ++ 0b0011#4 ++ 0b1#1 ++ 0b0100#4 ++ 0b1001#4 ++ 0b1010#4 ++ 0b11110000#8) =
      .ok (.rsbImm .cc true (.gpr .r4) (.gpr .r9) ⟨10#4, 240#8⟩) ∧
    decodeWord (0b1000#4 ++ 0b00#2 ++ 0b0#1 ++ 0b0011#4 ++ 0b0#1 ++ 0b1001#4 ++ 0b0100#4 ++ 0b10010#5 ++ 0b11#2 ++ 0b0#1 ++ 0b1110#4) =
      .ok (.rsbRegImm .hi false (.gpr .r9) (.gpr .r4) ⟨18#5, .ror, .gpr .r14⟩) ∧
    decodeWord (0b1101#4 ++ 0b00#2 ++ 0b0#1 ++ 0b0011#4 ++ 0b1#1 ++ 0b1111#4 ++ 0b1001#4 ++ 0b0110#4 ++ 0b0#1 ++ 0b00#2 ++ 0b1#1 ++ 0b1110#4) =
      .ok (.rsbRegReg .le true .pc (.gpr .r9) ⟨.gpr .r6, .lsl, .gpr .r14⟩) := by decide
theorem test_decode_add :
    decodeWord (0b0100#4 ++ 0b00#2 ++ 0b1#1 ++ 0b0100#4 ++ 0b0#1 ++ 0b0101#4 ++ 0b1010#4 ++ 0b0001#4 ++ 0b00010101#8) =
      .ok (.addImm .mi false (.gpr .r5) (.gpr .r10) ⟨1#4, 21#8⟩) ∧
    decodeWord (0b1001#4 ++ 0b00#2 ++ 0b0#1 ++ 0b0100#4 ++ 0b1#1 ++ 0b1010#4 ++ 0b0101#4 ++ 0b11101#5 ++ 0b00#2 ++ 0b0#1 ++ 0b0000#4) =
      .ok (.addRegImm .ls true (.gpr .r10) (.gpr .r5) ⟨29#5, .lsl, .gpr .r0⟩) ∧
    decodeWord (0b1110#4 ++ 0b00#2 ++ 0b0#1 ++ 0b0100#4 ++ 0b0#1 ++ 0b1111#4 ++ 0b1010#4 ++ 0b0111#4 ++ 0b0#1 ++ 0b01#2 ++ 0b1#1 ++ 0b0000#4) =
      .ok (.addRegReg .al false .pc (.gpr .r10) ⟨.gpr .r7, .lsr, .gpr .r0⟩) := by decide
theorem test_decode_adc :
    decodeWord (0b0101#4 ++ 0b00#2 ++ 0b1#1 ++ 0b0101#4 ++ 0b1#1 ++ 0b0110#4 ++ 0b1011#4 ++ 0b1000#4 ++ 0b00111010#8) =
      .ok (.adcImm .pl true (.gpr .r6) (.gpr .r11) ⟨8#4, 58#8⟩) ∧
    decodeWord (0b1010#4 ++ 0b00#2 ++ 0b0#1 ++ 0b0101#4 ++ 0b0#1 ++ 0b1011#4 ++ 0b0110#4 ++ 0b01000#5 ++ 0b01#2 ++ 0b0#1 ++ 0b0001#4) =
      .ok (.adcRegImm .ge false (.gpr .r11) (.gpr .r6) ⟨8#5, .lsr, .gpr .r1⟩) ∧
    decodeWord (0b0000#4 ++ 0b00#2 ++ 0b0#1 ++ 0b0101#4 ++ 0b1#1 ++ 0b1111#4 ++ 0b1011#4 ++ 0b1000#4 ++ 0b0#1 ++ 0b01#2 ++ 0b1#1 ++ 0b0001#4) =
      .ok (.adcRegReg .eq true .pc (.gpr .r11) ⟨.gpr .r8, .lsr, .gpr .r1⟩) := by decide
theorem test_decode_sbc :
    decodeWord (0b0110#4 ++ 0b00#2 ++ 0b1#1 ++ 0b0110#4 ++ 0b0#1 ++ 0b0111#4 ++ 0b1100#4 ++ 0b1111#4 ++ 0b01011111#8) =
      .ok (.sbcImm .vs false (.gpr .r7) (.gpr .r12) ⟨15#4, 95#8⟩) ∧
    decodeWord (0b1011#4 ++ 0b00#2 ++ 0b0#1 ++ 0b0110#4 ++ 0b1#1 ++ 0b1100#4 ++ 0b0111#4 ++ 0b10011#5 ++ 0b10#2 ++ 0b0#1 ++ 0b0010#4) =
      .ok (.sbcRegImm .lt true (.gpr .r12) (.gpr .r7) ⟨19#5, .asr, .gpr .r2⟩) ∧
    decodeWord (0b0001#4 ++ 0b00#2 ++ 0b0#1 ++ 0b0110#4 ++ 0b0#1 ++ 0b1111#4 ++ 0b1100#4 ++ 0b1001#4 ++ 0b0#1 ++ 0b01#2 ++ 0b1#1 ++ 0b0010#4) =
      .ok (.sbcRegReg .ne false .pc (.gpr .r12) ⟨.gpr .r9, .lsr, .gpr .r2⟩) := by decide
theorem test_decode_rsc :
    decodeWord (0b0111#4 ++ 0b00#2 ++ 0b1#1 ++ 0b0111#4 ++ 0b1#1 ++ 0b1000#4 ++ 0b1101#4 ++ 0b0110#4 ++ 0b10000100#8) =
      .ok (.rscImm .vc true (.gpr .r8) (.gpr .r13) ⟨6#4, 132#8⟩) ∧
    decodeWord (0b1100#4 ++ 0b00#2 ++ 0b0#1 ++ 0b0111#4 ++ 0b0#1 ++ 0b1101#4 ++ 0b1000#4 ++ 0b11110#5 ++ 0b11#2 ++ 0b0#1 ++ 0b0011#4) =
      .ok (.rscRegImm .gt false (.gpr .r13) (.gpr .r8) ⟨30#5, .ror, .gpr .r3⟩) ∧
    decodeWord (0b0010#4 ++ 0b00#2 ++ 0b0#1 ++ 0b0111#4 ++ 0b1#1 ++ 0b1111#4 ++ 0b1101#4 ++ 0b1010#4 ++ 0b0#1 ++ 0b01#2 ++ 0b1#1 ++ 0b0011#4) =
      .ok (.rscRegReg .cs true .pc (.gpr .r13) ⟨.gpr .r10, .lsr, .gpr .r3⟩) := by decide
theorem test_decode_tst :
    decodeWord (0b1000#4 ++ 0b00#2 ++ 0b1#1 ++ 0b1000#4 ++ 0b1#1 ++ 0b1001#4 ++ 0b1110#4 ++ 0b1101#4 ++ 0b10101001#8) =
      .ok (.tstImm .hi (.gpr .r9) (.gpr .r14) ⟨13#4, 169#8⟩) ∧
    decodeWord (0b1101#4 ++ 0b00#2 ++ 0b0#1 ++ 0b1000#4 ++ 0b1#1 ++ 0b1110#4 ++ 0b1001#4 ++ 0b01001#5 ++ 0b00#2 ++ 0b0#1 ++ 0b0100#4) =
      .ok (.tstRegImm .le (.gpr .r14) (.gpr .r9) ⟨9#5, .lsl, .gpr .r4⟩) ∧
    decodeWord (0b0011#4 ++ 0b00#2 ++ 0b0#1 ++ 0b1000#4 ++ 0b1#1 ++ 0b1111#4 ++ 0b1110#4 ++ 0b1011#4 ++ 0b0#1 ++ 0b10#2 ++ 0b1#1 ++ 0b0100#4) =
      .ok (.tstRegReg .cc .pc (.gpr .r14) ⟨.gpr .r11, .asr, .gpr .r4⟩) := by decide
theorem test_decode_teq :
    decodeWord (0b1001#4 ++ 0b00#2 ++ 0b1#1 ++ 0b1001#4 ++ 0b1#1 ++ 0b1010#4 ++ 0b0000#4 ++ 0b0100#4 ++ 0b11001110#8) =
      .ok (.teqImm .ls (.gpr .r10) (.gpr .r0) ⟨4#4, 206#8⟩) ∧
    decodeWord (0b1110#4 ++ 0b00#2 ++ 0b0#1 ++ 0b1001#4 ++ 0b1#1 ++ 0b0000#4 ++ 0b1010#4 ++ 0b10100#5 ++ 0b01#2 ++ 0b0#1 ++ 0b0101#4) =
      .ok (.teqRegImm .al (.gpr .r0) (.gpr .r10) ⟨20#5, .lsr, .gpr .r5⟩) ∧
    decodeWord (0b0100#4 ++ 0b00#2 ++ 0b0#1 ++ 0b1001#4 ++ 0b1#1 ++ 0b1111#4 ++ 0b0000#4 ++ 0b1100#4 ++ 0b0#1 ++ 0b10#2 ++ 0b1#1 ++ 0b0101#4) =
      .ok (.teqRegReg .mi .pc (.gpr .r0) ⟨.gpr .r12, .asr, .gpr .r5⟩) := by decide
theorem test_decode_cmp :
    decodeWord (0b1010#4 ++ 0b00#2 ++ 0b1#1 ++ 0b1010#4 ++ 0b1#1 ++ 0b1011#4 ++ 0b0001#4 ++ 0b1011#4 ++ 0b11110011#8) =
      .ok (.cmpImm .ge (.gpr .r11) (.gpr .r1) ⟨11#4, 243#8⟩) ∧
    decodeWord (0b0000#4 ++ 0b00#2 ++ 0b0#1 ++ 0b1010#4 ++ 0b1#1 ++ 0b0001#4 ++ 0b1011#4 ++ 0b11111#5 ++ 0b10#2 ++ 0b0#1 ++ 0b0110#4) =
      .ok (.cmpRegImm .eq (.gpr .r1) (.gpr .r11) ⟨31#5, .asr, .gpr .r6⟩) ∧
    decodeWord (0b0101#4 ++ 0b00#2 ++ 0b0#1 ++ 0b1010#4 ++ 0b1#1 ++ 0b1111#4 ++ 0b0001#4 ++ 0b1101#4 ++ 0b0#1 ++ 0b10#2 ++ 0b1#1 ++ 0b0110#4) =
      .ok (.cmpRegReg .pl .pc (.gpr .r1) ⟨.gpr .r13, .asr, .gpr .r6⟩) := by decide
theorem test_decode_cmn :
    decodeWord (0b1011#4 ++ 0b00#2 ++ 0b1#1 ++ 0b1011#4 ++ 0b1#1 ++ 0b1100#4 ++ 0b0010#4 ++ 0b0010#4 ++ 0b00011000#8) =
      .ok (.cmnImm .lt (.gpr .r12) (.gpr .r2) ⟨2#4, 24#8⟩) ∧
    decodeWord (0b0001#4 ++ 0b00#2 ++ 0b0#1 ++ 0b1011#4 ++ 0b1#1 ++ 0b0010#4 ++ 0b1100#4 ++ 0b01010#5 ++ 0b11#2 ++ 0b0#1 ++ 0b0111#4) =
      .ok (.cmnRegImm .ne (.gpr .r2) (.gpr .r12) ⟨10#5, .ror, .gpr .r7⟩) ∧
    decodeWord (0b0110#4 ++ 0b00#2 ++ 0b0#1 ++ 0b1011#4 ++ 0b1#1 ++ 0b1111#4 ++ 0b0010#4 ++ 0b1110#4 ++ 0b0#1 ++ 0b10#2 ++ 0b1#1 ++ 0b0111#4) =
      .ok (.cmnRegReg .vs .pc (.gpr .r2) ⟨.gpr .r14, .asr, .gpr .r7⟩) := by decide
theorem test_decode_orr :
    decodeWord (0b1100#4 ++ 0b00#2 ++ 0b1#1 ++ 0b1100#4 ++ 0b0#1 ++ 0b1101#4 ++ 0b0011#4 ++ 0b1001#4 ++ 0b00111101#8) =
      .ok (.orrImm .gt false (.gpr .r13) (.gpr .r3) ⟨9#4, 61#8⟩) ∧
    decodeWord (0b0010#4 ++ 0b00#2 ++ 0b0#1 ++ 0b1100#4 ++ 0b1#1 ++ 0b0011#4 ++ 0b1101#4 ++ 0b10101#5 ++ 0b00#2 ++ 0b0#1 ++ 0b1000#4) =
      .ok (.orrRegImm .cs true (.gpr .r3) (.gpr .r13) ⟨21#5, .lsl, .gpr .r8⟩) ∧
    decodeWord (0b0111#4 ++ 0b00#2 ++ 0b0#1 ++ 0b1100#4 ++ 0b0#1 ++ 0b1111#4 ++ 0b0011#4 ++ 0b0000#4 ++ 0b0#1 ++ 0b11#2 ++ 0b1#1 ++ 0b1000#4) =
      .ok (.orrRegReg .vc false .pc (.gpr .r3) ⟨.gpr .r0, .ror, .gpr .r8⟩) := by decide
theorem test_decode_mov :
    decodeWord (0b1101#4 ++ 0b00#2 ++ 0b1#1 ++ 0b1101#4 ++ 0b1#1 ++ 0b1110#4 ++ 0b0100#4 ++ 0b0000#4 ++ 0b01100010#8) =
      .ok (.movImm .le true (.gpr .r14) (.gpr .r4) ⟨0#4, 98#8⟩) ∧
    decodeWord (0b0011#4 ++ 0b00#2 ++ 0b0#1 ++ 0b1101#4 ++ 0b0#1 ++ 0b0100#4 ++ 0b1110#4 ++ 0b00000#5 ++ 0b01#2 ++ 0b0#1 ++ 0b1001#4) =
      .ok (.movRegImm .cc false (.gpr .r4) (.gpr .r14) ⟨0#5, .lsr, .gpr .r9⟩) ∧
    decodeWord (0b1000#4 ++ 0b00#2 ++ 0b0#1 ++ 0b1101#4 ++ 0b1#1 ++ 0b1111#4 ++ 0b0100#4 ++ 0b0001#4 ++ 0b0#1 ++ 0b11#2 ++ 0b1#1 ++ 0b1001#4) =
      .ok (.movRegReg .hi true .pc (.gpr .r4) ⟨.gpr .r1, .ror, .gpr .r9⟩) := by decide
theorem test_decode_bic :
    decodeWord (0b1110#4 ++ 0b00#2 ++ 0b1#1 ++ 0b1110#4 ++ 0b0#1 ++ 0b0000#4 ++ 0b0101#4 ++ 0b0111#4 ++ 0b10000111#8) =
      .ok (.bicImm .al false (.gpr .r0) (.gpr .r5) ⟨7#4, 135#8⟩) ∧
    decodeWord (0b0100#4 ++ 0b00#2 ++ 0b0#1 ++ 0b1110#4 ++ 0b1#1 ++ 0b0101#4 ++ 0b0000#4 ++ 0b01011#5 ++ 0b10#2 ++ 0b0#1 ++ 0b1010#4) =
      .ok (.bicRegImm .mi true (.gpr .r5) (.gpr .r0) ⟨11#5, .asr, .gpr .r10⟩) ∧
    decodeWord (0b1001#4 ++ 0b00#2 ++ 0b0#1 ++ 0b1110#4 ++ 0b0#1 ++ 0b1111#4 ++ 0b0101#4 ++ 0b0010#4 ++ 0b0#1 ++ 0b11#2 ++ 0b1#1 ++ 0b1010#4) =
      .ok (.bicRegReg .ls false .pc (.gpr .r5) ⟨.gpr .r2, .ror, .gpr .r10⟩) := by decide
theorem test_decode_mvn :
    decodeWord (0b0000#4 ++ 0b00#2 ++ 0b1#1 ++ 0b1111#4 ++ 0b1#1 ++ 0b0001#4 ++ 0b0110#4 ++ 0b1110#4 ++ 0b10101100#8) =
      .ok (.mvnImm .eq true (.gpr .r1) (.gpr .r6) ⟨14#4, 172#8⟩) ∧
    decodeWord (0b0101#4 ++ 0b00#2 ++ 0b0#1 ++ 0b1111#4 ++ 0b0#1 ++ 0b0110#4 ++ 0b0001#4 ++ 0b10110#5 ++ 0b11#2 ++ 0b0#1 ++ 0b1011#4) =
      .ok (.mvnRegImm .pl false (.gpr .r6) (.gpr .r1) ⟨22#5, .ror, .gpr .r11⟩) ∧
    decodeWord (0b1010#4 ++ 0b00#2 ++ 0b0#1 ++ 0b1111#4 ++ 0b1#1 ++ 0b1111#4 ++ 0b0110#4 ++ 0b0011#4 ++ 0b0#1 ++ 0b11#2 ++ 0b1#1 ++ 0b1011#4) =
      .ok (.mvnRegReg .ge true .pc (.gpr .r6) ⟨.gpr .r3, .ror, .gpr .r11⟩) := by decide

/-! ### Decoding: what is refused, and the interface the host asks (PF.7 to PF.13, PF.16, PF.17) -/

theorem test_decode_refusals :
    decodeWord 0xE320F000#32 = .error .testOpcodeWithSZero ∧ decodeWord 0xE10F0000#32 = .error .testOpcodeWithSZero ∧
    decodeWord 0xE12FFF1E#32 = .error .testOpcodeWithSZero ∧ decodeWord 0xE0000291#32 = .error .multiplyOrUnknown ∧
    decodeWord 0xF1A00000#32 = .error .cond1111 ∧ decodeWord 0xE5910000#32 = .error .notDataProcessing ∧
    decodeWord 0xEAFFFFFE#32 = .error .notDataProcessing := by decide

theorem test_decode_ignored_fields :
    decodeWord 0xE1AF5000#32 = .ok (.movRegImm .al false .pc (.gpr .r5) ⟨0#5, .lsl, .gpr .r0⟩) ∧
    decodeWord 0xE3511005#32 = .ok (.cmpImm .al (.gpr .r1) (.gpr .r1) ⟨0#4, 5#8⟩) := by decide

/-- ADDEQ R2,R4,R5 (30_encoding.md section 5) as bytes, in both byte orders, and the encoder's word for it. -/
theorem test_decode_bytes :
    decode .little [0x05#8, 0x20#8, 0x84#8, 0x00#8] = .ok (.addRegImm .eq false (.gpr .r4) (.gpr .r2) ⟨0#5, .lsl, .gpr .r5⟩, []) ∧
    decode .big [0x00#8, 0x84#8, 0x20#8, 0x05#8] = .ok (.addRegImm .eq false (.gpr .r4) (.gpr .r2) ⟨0#5, .lsl, .gpr .r5⟩, []) ∧
    decode .little [0x05#8, 0x20#8, 0x84#8] = .error .truncated ∧
    encode (.addRegImm .eq false (.gpr .r4) (.gpr .r2) ⟨0#5, .lsl, .gpr .r5⟩) = 0x00842005#32 := by decide

theorem test_decodeTableWord :
    decodeTableWord 32 0xE2010000 = some (.andImm .al false (.gpr .r1) (.gpr .r0) ⟨0#4, 0#8⟩) ∧
    decodeTableWord 32 0xF2010000 = none := by decide

/-! ### One step -/

/-- A state at pc 0x8000 with a CPSR, R0 = 0xDEADBEEF and R1, R2 and R3 given. -/
def before (psr r1 r2 r3 : Word) : State :=
  { State.reset with
    pc := 0x00008000#32
    cpsr := psr
    regs := { RegFile.zero with r0 := 0xDEADBEEF#32, r1 := r1, r2 := r2, r3 := r3 } }

/-- R0 and CPSR after one step over a word. -/
def r0AndCpsr (w : Nat) (s : State) : Option (Word × Word) :=
  match step (s.withFetchWord 32 w) with
  | .next t => some (t.regs.r0, t.cpsr)
  | _ => none

/-- pc and CPSR after one step over a word. -/
def pcAndCpsr (w : Nat) (s : State) : Option (Word × Word) :=
  match step (s.withFetchWord 32 w) with
  | .next t => some (t.pc, t.cpsr)
  | _ => none

/-- The fault one step over a word stops with. -/
def faultOf (w : Nat) (s : State) : Option Fault :=
  match step (s.withFetchWord 32 w) with
  | .fault f => some f
  | _ => none

/-- The refusal one step over a word stops with. -/
def refusalOf (w : Nat) (s : State) : Option Refusal :=
  match step (s.withFetchWord 32 w) with
  | .refused f => some f
  | _ => none

/-- LG.4, LG.1, R94. -/
theorem test_step_and :
    r0AndCpsr 0xE21100FF (before 0x20000010#32 0x12345678#32 0x00000000#32 0x00000000#32) = some (0x00000078#32, 0x20000010#32) ∧
    r0AndCpsr 0xE0110002 (before 0x30000010#32 0xF0F0F0F0#32 0x0FF00FF0#32 0x00000000#32) = some (0x00F000F0#32, 0x30000010#32) ∧
    r0AndCpsr 0xE0110312 (before 0x90000010#32 0xFFFFFFFF#32 0x80000001#32 0x00000020#32) = some (0x00000000#32, 0x70000010#32) := by decide
/-- R82, LG.5, R95. -/
theorem test_step_eor :
    r0AndCpsr 0xE2310102 (before 0x10000010#32 0x80000001#32 0x00000000#32 0x00000000#32) = some (0x00000001#32, 0x30000010#32) ∧
    r0AndCpsr 0xE0310002 (before 0x00000010#32 0xFFFFFFFF#32 0x0000FFFF#32 0x00000000#32) = some (0xFFFF0000#32, 0x80000010#32) ∧
    r0AndCpsr 0xE0310332 (before 0x00000010#32 0x00000001#32 0x80000000#32 0x00000020#32) = some (0x00000001#32, 0x20000010#32) := by decide
/-- R121, AR.14, R93. -/
theorem test_step_sub :
    r0AndCpsr 0xE2510005 (before 0x00000010#32 0x00000003#32 0x00000000#32 0x00000000#32) = some (0xFFFFFFFE#32, 0x80000010#32) ∧
    r0AndCpsr 0xE0510002 (before 0x00000010#32 0x80000000#32 0x00000001#32 0x00000000#32) = some (0x7FFFFFFF#32, 0x30000010#32) ∧
    r0AndCpsr 0xE0510332 (before 0xC0000010#32 0x00000064#32 0x00000080#32 0x00000004#32) = some (0x0000005C#32, 0x20000010#32) := by decide
/-- AR.19, AR.21, R96. -/
theorem test_step_rsb :
    r0AndCpsr 0xE2710000 (before 0x00000010#32 0x80000000#32 0x00000000#32 0x00000000#32) = some (0x80000000#32, 0x90000010#32) ∧
    r0AndCpsr 0xE0710002 (before 0x00000010#32 0x00000003#32 0x00000005#32 0x00000000#32) = some (0x00000002#32, 0x20000010#32) ∧
    r0AndCpsr 0xE0710352 (before 0x00000010#32 0x00000001#32 0x80000000#32 0x000000FF#32) = some (0xFFFFFFFE#32, 0xA0000010#32) := by decide
/-- R123, AR.1, R98. -/
theorem test_step_add :
    r0AndCpsr 0xE2910102 (before 0x00000010#32 0x80000000#32 0x00000000#32 0x00000000#32) = some (0x00000000#32, 0x70000010#32) ∧
    r0AndCpsr 0xE0910002 (before 0x00000010#32 0x7FFFFFFF#32 0x00000001#32 0x00000000#32) = some (0x80000000#32, 0x90000010#32) ∧
    r0AndCpsr 0xE0910312 (before 0xF0000010#32 0xFFFFFFFE#32 0x00000001#32 0x00000001#32) = some (0x00000000#32, 0x60000010#32) := by decide
/-- R124, AR.39, R98. -/
theorem test_step_adc :
    r0AndCpsr 0xE2B10000 (before 0x20000010#32 0x7FFFFFFF#32 0x00000000#32 0x00000000#32) = some (0x80000000#32, 0x90000010#32) ∧
    r0AndCpsr 0xE0B100A2 (before 0x00000010#32 0x00000000#32 0x00000003#32 0x00000000#32) = some (0x00000001#32, 0x00000010#32) ∧
    r0AndCpsr 0xE0B10332 (before 0x20000010#32 0xFFFFFFFF#32 0x00000003#32 0x00000001#32) = some (0x00000001#32, 0x20000010#32) := by decide
/-- R125, AR.26, R125. -/
theorem test_step_sbc :
    r0AndCpsr 0xE2D10002 (before 0x00000010#32 0x00000005#32 0x00000000#32 0x00000000#32) = some (0x00000002#32, 0x20000010#32) ∧
    r0AndCpsr 0xE0D10002 (before 0x00000010#32 0x80000000#32 0x00000000#32 0x00000000#32) = some (0x7FFFFFFF#32, 0x30000010#32) ∧
    r0AndCpsr 0xE0D10312 (before 0x20000010#32 0x00000005#32 0x00000001#32 0x00000001#32) = some (0x00000003#32, 0x20000010#32) := by decide
/-- AR.28, AR.31, R126. -/
theorem test_step_rsc :
    r0AndCpsr 0xE2F10000 (before 0x20000010#32 0x00000001#32 0x00000000#32 0x00000000#32) = some (0xFFFFFFFF#32, 0x80000010#32) ∧
    r0AndCpsr 0xE0F10002 (before 0x00000010#32 0x00000002#32 0x00000005#32 0x00000000#32) = some (0x00000002#32, 0x20000010#32) ∧
    r0AndCpsr 0xE0F10372 (before 0x20000010#32 0x00000002#32 0x00000005#32 0x00000020#32) = some (0x00000003#32, 0x20000010#32) := by decide
/-- LG.8, LG.10, R93. -/
theorem test_step_tst :
    r0AndCpsr 0xE3110102 (before 0x00000010#32 0x80000000#32 0x00000000#32 0x00000000#32) = some (0xDEADBEEF#32, 0xA0000010#32) ∧
    r0AndCpsr 0xE1110002 (before 0x60000010#32 0x0000000F#32 0x00000008#32 0x00000000#32) = some (0xDEADBEEF#32, 0x20000010#32) ∧
    r0AndCpsr 0xE1110352 (before 0x10000010#32 0x80000000#32 0x80000001#32 0x00000001#32) = some (0xDEADBEEF#32, 0xB0000010#32) := by decide
/-- LG.11, LG.13, R97. -/
theorem test_step_teq :
    r0AndCpsr 0xE3310003 (before 0xB0000010#32 0x00000003#32 0x00000000#32 0x00000000#32) = some (0xDEADBEEF#32, 0x70000010#32) ∧
    r0AndCpsr 0xE1310002 (before 0x00000010#32 0x80000000#32 0x00000001#32 0x00000000#32) = some (0xDEADBEEF#32, 0x80000010#32) ∧
    r0AndCpsr 0xE1310372 (before 0x00000010#32 0xC0000000#32 0x80000001#32 0x00000021#32) = some (0xDEADBEEF#32, 0x60000010#32) := by decide
/-- AR.33, AR.35, R127. -/
theorem test_step_cmp :
    r0AndCpsr 0xE3510005 (before 0x00000010#32 0x00000003#32 0x00000000#32 0x00000000#32) = some (0xDEADBEEF#32, 0x80000010#32) ∧
    r0AndCpsr 0xE1510002 (before 0x00000010#32 0x80000000#32 0x7FFFFFFF#32 0x00000000#32) = some (0xDEADBEEF#32, 0x30000010#32) ∧
    r0AndCpsr 0xE1510312 (before 0x90000010#32 0x00000008#32 0x00000004#32 0x00000001#32) = some (0xDEADBEEF#32, 0x60000010#32) := by decide
/-- AR.37, R128, R128. -/
theorem test_step_cmn :
    r0AndCpsr 0xE3710001 (before 0x00000010#32 0x7FFFFFFF#32 0x00000000#32 0x00000000#32) = some (0xDEADBEEF#32, 0x90000010#32) ∧
    r0AndCpsr 0xE1710042 (before 0x00000010#32 0x00000001#32 0x80000000#32 0x00000000#32) = some (0xDEADBEEF#32, 0x60000010#32) ∧
    r0AndCpsr 0xE1710372 (before 0x00000010#32 0x80000000#32 0x00000001#32 0x00000001#32) = some (0xDEADBEEF#32, 0x70000010#32) := by decide
/-- R82, LG.14, R97. -/
theorem test_step_orr :
    r0AndCpsr 0xE38104FF (before 0x50000010#32 0x00000001#32 0x00000000#32 0x00000000#32) = some (0xFF000001#32, 0x50000010#32) ∧
    r0AndCpsr 0xE1910402 (before 0x00000010#32 0x000000FF#32 0x00ABCDEF#32 0x00000000#32) = some (0xABCDEFFF#32, 0x80000010#32) ∧
    r0AndCpsr 0xE1910372 (before 0x40000010#32 0x00000000#32 0x80000001#32 0x00000040#32) = some (0x80000001#32, 0xA0000010#32) := by decide
/-- IM.6, LG.19, R96. -/
theorem test_step_mov :
    r0AndCpsr 0xE3B002FF (before 0x20000010#32 0x11111111#32 0x00000000#32 0x00000000#32) = some (0xF000000F#32, 0xA0000010#32) ∧
    r0AndCpsr 0xE1B000A2 (before 0x00000010#32 0x11111111#32 0x00000001#32 0x00000000#32) = some (0x00000000#32, 0x60000010#32) ∧
    r0AndCpsr 0xE1B00352 (before 0x40000010#32 0x11111111#32 0x80000001#32 0x00000021#32) = some (0xFFFFFFFF#32, 0xA0000010#32) := by decide
/-- LG.20, LG.21, R92. -/
theorem test_step_bic :
    r0AndCpsr 0xE3D100FF (before 0x20000010#32 0x12345678#32 0x00000000#32 0x00000000#32) = some (0x12345600#32, 0x20000010#32) ∧
    r0AndCpsr 0xE1D10002 (before 0x90000010#32 0xFFFFFFFF#32 0xFFFFFFFF#32 0x00000000#32) = some (0x00000000#32, 0x50000010#32) ∧
    r0AndCpsr 0xE1D10372 (before 0x20000010#32 0xFFFFFFFF#32 0x80000000#32 0x00000100#32) = some (0x7FFFFFFF#32, 0x20000010#32) := by decide
/-- LG.23, LG.25, R93. -/
theorem test_step_mvn :
    r0AndCpsr 0xE3F00000 (before 0x60000010#32 0x11111111#32 0x00000000#32 0x00000000#32) = some (0xFFFFFFFF#32, 0xA0000010#32) ∧
    r0AndCpsr 0xE1E00FC2 (before 0x00000010#32 0x11111111#32 0x80000000#32 0x00000000#32) = some (0x00000000#32, 0x00000010#32) ∧
    r0AndCpsr 0xE1F00312 (before 0x00000010#32 0x11111111#32 0x80000001#32 0x0000001F#32) = some (0x7FFFFFFF#32, 0x00000010#32) := by decide

/-! ### The shifter at its special amounts (SH1, SH2, IM) -/

theorem test_shift_by_constant :
    shiftByImm .lsl 0x80000001#32 0#5 true = ⟨0x80000001#32, true⟩ ∧ shiftByImm .lsl 0x00000003#32 31#5 false = ⟨0x80000000#32, true⟩ ∧
    shiftByImm .lsr 0x80000001#32 0#5 false = ⟨0x00000000#32, true⟩ ∧ shiftByImm .lsr 0x12345678#32 5#5 false = ⟨0x0091A2B3#32, true⟩ ∧
    shiftByImm .asr 0x80000001#32 0#5 false = ⟨0xFFFFFFFF#32, true⟩ ∧ shiftByImm .asr 0x80000001#32 5#5 true = ⟨0xFC000000#32, false⟩ ∧
    shiftByImm .ror 0x00000002#32 0#5 true = ⟨0x80000001#32, false⟩ ∧ shiftByImm .ror 0x12345678#32 5#5 false = ⟨0xC091A2B3#32, true⟩ := by
  decide

theorem test_shift_by_register :
    shiftByReg .lsl 0x80000001#32 32 false = ⟨0#32, true⟩ ∧ shiftByReg .lsl 0x80000001#32 33 false = ⟨0#32, false⟩ ∧
    shiftByReg .lsr 0x80000001#32 32 false = ⟨0#32, true⟩ ∧ shiftByReg .lsr 0x80000001#32 255 false = ⟨0#32, false⟩ ∧
    shiftByReg .asr 0x80000001#32 32 false = ⟨0xFFFFFFFF#32, true⟩ ∧ shiftByReg .asr 0x80000001#32 31 false = ⟨0xFFFFFFFF#32, false⟩ ∧
    shiftByReg .ror 0x80000001#32 64 false = ⟨0x80000001#32, true⟩ ∧ shiftByReg .ror 0x80000001#32 255 false = ⟨0x00000003#32, false⟩ ∧
    shiftByReg .ror 0x80000001#32 0 true = ⟨0x80000001#32, true⟩ := by decide

theorem test_immediate_operand :
    immShift ⟨0#4, 0xFF#8⟩ true = ⟨0x000000FF#32, true⟩ ∧ immShift ⟨2#4, 0xFF#8⟩ true = ⟨0xF000000F#32, true⟩ ∧
    immShift ⟨15#4, 0xFF#8⟩ true = ⟨0x000003FC#32, false⟩ ∧ immShift ⟨1#4, 0x00#8⟩ true = ⟨0x00000000#32, false⟩ := by decide

/-- SH2.38 and SH2.39: RS_AMOUNT_BYTE. -/
theorem test_amount_byte :
    rsAmount .high 0x03000004#32 = 3 ∧ rsAmount .low 0x03000004#32 = 4 ∧
    r0AndCpsr 0xE1B00231 { before 0x00000010#32 0x80000000#32 0x03000004#32 0#32 with params := ⟨.high, .little⟩ } =
      some (0x10000000#32, 0x00000010#32) := by decide

/-! ### R15 as operand and destination, the return, the P forms (PC and PF) -/

/-- A state in a mode, with every SPSR and every R14 given. -/
def priv (psr saved link : Word) : State :=
  { State.reset with
    pc := 0x00008000#32
    cpsr := psr
    spsr := { fiq := saved, irq := saved, svc := saved, abt := saved, und := saved }
    regs := { RegFile.zero with
      r14 := link, r14fiq := link, r14irq := link, r14svc := link, r14abt := link, r14und := link } }

/-- PC.1, PC.4, PC.6. -/
theorem test_pc_reads_ahead :
    r0AndCpsr 0xE1A0000F (before 0x00000010#32 0#32 0#32 0#32) = some (0x00008008#32, 0x00000010#32) ∧
    r0AndCpsr 0xE08F0211 (before 0x00000010#32 1#32 4#32 0#32) = some (0x0000801C#32, 0x00000010#32) ∧
    r0AndCpsr 0xE05F000F (before 0x00000010#32 0#32 0#32 0#32) = some (0x00000000#32, 0x60000010#32) := by decide

/-- PC.9, PC.10, PC.13, PC.12, PC.8. -/
theorem test_pc_written :
    pcAndCpsr 0xE1A0F00E (priv 0x00000010#32 0#32 0x00009000#32) = some (0x00009000#32, 0x00000010#32) ∧
    pcAndCpsr 0xE28FF004 (priv 0x00000010#32 0#32 0#32) = some (0x0000800C#32, 0x00000010#32) ∧
    pcAndCpsr 0x11A0F00E (priv 0x40000010#32 0#32 0x00009002#32) = some (0x00008004#32, 0x40000010#32) ∧
    faultOf 0xE1A0F00E (priv 0x00000010#32 0#32 0x00009002#32) = some .misalignedPcWrite ∧
    pcAndCpsr 0xE1A00000 { priv 0x00000010#32 0#32 0#32 with pc := 0xFFFFFFFC#32 } = some (0x00000000#32, 0x00000010#32) := by decide

/-- PC.15, PC.16, PC.14, PC.17, PC.18, PC.19. -/
theorem test_return_from_exception :
    pcAndCpsr 0xE1B0F00E (priv 0x00000013#32 0x60000010#32 0x00009000#32) = some (0x00009000#32, 0x60000010#32) ∧
    pcAndCpsr 0xE25EF004 (priv 0x00000012#32 0x8000001F#32 0x00009008#32) = some (0x00009004#32, 0x8000001F#32) ∧
    faultOf 0xE25FF008 (priv 0x00000010#32 0#32 0#32) = some .returnInUserMode ∧
    faultOf 0xE1B0F00E (priv 0x0000001F#32 0#32 0x00009000#32) = some .noSpsr ∧
    refusalOf 0xE1B0F00E (priv 0x00000013#32 0x00000030#32 0x00009000#32) = some .thumbState ∧
    faultOf 0xE1B0F00E (priv 0x00000013#32 0x00000000#32 0x00009000#32) = some .illegalMode := by decide

/-- PF.1 to PF.6. -/
theorem test_p_forms :
    pcAndCpsr 0xE330F000 (priv 0xA0000010#32 0#32 0#32) = some (0x00008004#32, 0xA0000010#32) ∧
    pcAndCpsr 0xE330F000 (priv 0x00000013#32 0x90000010#32 0#32) = some (0x00008004#32, 0x90000010#32) ∧
    faultOf 0xE330F000 (priv 0x0000001F#32 0#32 0#32) = some .noSpsr ∧
    faultOf 0xE310F000 (priv 0x00000010#32 0#32 0#32) = some .testPFormInUserMode ∧
    pcAndCpsr 0xE350F000 (priv 0x00000012#32 0x2000001F#32 0#32) = some (0x00008004#32, 0x2000001F#32) ∧
    faultOf 0xE370F000 (priv 0x00000010#32 0#32 0#32) = some .testPFormInUserMode := by decide

/-- PF.14, PF.15, PF.9, 20_memory.md R34, 30_encoding.md R40. -/
theorem test_stops :
    faultOf 0xE1A00F11 (before 0x00000010#32 0#32 0#32 0#32) = some .shiftAmountInPc ∧
    faultOf 0x01A00F11 (before 0x00000010#32 0#32 0#32 0#32) = some .shiftAmountInPc ∧
    refusalOf 0xE12FFF1E (before 0x00000010#32 0#32 0#32 0#32) = some (.outOfScopeWord .testOpcodeWithSZero) ∧
    faultOf 0xE1A00000 { before 0x00000010#32 0#32 0#32 0#32 with pc := 0x00008002#32 } = some .misalignedFetch ∧
    refusalOf 0xE1A00000 (before 0x00000030#32 0#32 0#32 0#32) = some .thumbState := by decide

/-- One physical register after one step over a word. -/
def regAfter (w : Nat) (s : State) (p : PhysReg) : Option Word :=
  match step (s.withFetchWord 32 w) with
  | .next t => some (t.regs.get p)
  | _ => none

/-- The banks of 10_state.md R13: MOV R13,R0 (0xE1A0D000) and MOV R8,R0 (0xE1A08000) write the current mode's copy. -/
theorem test_banks :
    regAfter 0xE1A0D000 (before 0x00000012#32 0#32 0#32 0#32) .r13irq = some 0xDEADBEEF#32 ∧
    regAfter 0xE1A0D000 (before 0x00000012#32 0#32 0#32 0#32) .r13 = some 0#32 ∧
    regAfter 0xE1A08000 (before 0x00000011#32 0#32 0#32 0#32) .r8fiq = some 0xDEADBEEF#32 ∧
    regAfter 0xE1A08000 (before 0x00000012#32 0#32 0#32 0#32) .r8 = some 0xDEADBEEF#32 ∧
    regAfter 0xE1A0D000 (before 0x0000001F#32 0#32 0#32 0#32) .r13 = some 0xDEADBEEF#32 := by decide

/-- 60_exceptions.md R141 and R144, by hand: FIQ from User mode, and a data abort with F = 0 from Supervisor mode. -/
theorem test_takeException :
    (takeException .fiq 0x00008004#32 (before 0x60000010#32 0#32 0#32 0#32)).cpsr = 0x600000D1#32 ∧
    (takeException .fiq 0x00008004#32 (before 0x60000010#32 0#32 0#32 0#32)).pc = 0x0000001C#32 ∧
    (takeException .fiq 0x00008004#32 (before 0x60000010#32 0#32 0#32 0#32)).regs.r14fiq = 0x00008008#32 ∧
    (takeException .dataAbort 0x00008004#32 (before 0x00000013#32 0#32 0#32 0#32)).cpsr = 0x00000097#32 ∧
    (takeException .dataAbort 0x00008004#32 (before 0x00000013#32 0#32 0#32 0#32)).pc = 0x00000010#32 ∧
    (takeException .dataAbort 0x00008004#32 (before 0x00000013#32 0#32 0#32 0#32)).spsr.abt = 0x00000013#32 := by decide

/-- V-CD: MOVcond R0,#1, executed exactly in the columns marked yes (columns 0000, 0100, 0010, 1001). -/
theorem test_conditions :
    ([0x0, 0x4, 0x2, 0x9].map fun f => [Cond.eq, .ne, .cs, .cc, .mi, .pl, .vs, .vc, .hi, .ls, .ge, .lt, .gt, .le, .al].map
      fun c => condHolds c (psrFlags (BitVec.ofNat 32 (f * 2 ^ 28)))) =
    [[false, true, false, true, false, true, false, true, false, true, true, false, true, false, true],
     [true, false, false, true, false, true, false, true, false, true, true, false, false, true, true],
     [false, true, true, false, false, true, false, true, true, false, true, false, true, false, true],
     [false, true, false, true, true, false, true, false, false, true, true, false, true, false, true]] := by decide

/-- The first step after reset runs the word placed (MOV R0,#1), and R13 is the Supervisor copy. -/
theorem test_first_step_after_reset :
    regAfter 0xE3A0D001 State.reset .r13svc = some 1#32 ∧
    pcAndCpsr 0xE3A0D001 State.reset = some (0x00000004#32, 0x000000D3#32) := by decide

/-- Memory keeps its canonical form: bytes supplied out of order, and one supplied twice. -/
theorem test_memory_form :
    writeByte (writeByte (writeByte [] 9 1#8) 4 2#8) 9 3#8 = [(4, 2#8), (9, 3#8)] ∧
    Memory.wf (writeWord .big [] 0xFFFFFFFC#32 0x01020304#32) = true ∧ Memory.wf [(4, 2#8), (4, 3#8)] = false := by decide

/-! ### Witnesses: for every statement with hypotheses, a state and operands that meet them -/

/-- Supervisor mode, R1 = 0x9000, R2 = 4, R4 = 1 and a legal SPSR. -/
def svc : State :=
  { priv 0x00000013#32 0x60000010#32 0#32 with
    regs := { RegFile.zero with r1 := 0x00009000#32, r2 := 4#32, r4 := 1#32, r5 := 0x00009001#32, r6 := 0xFFFFFFFC#32, r7 := 3#32 } }

/-- A register-specified amount of 0 (R3) on a register. -/
def byR3 (rm : Gpr) : ShiftRegOperand := ⟨.gpr .r3, .lsl, .gpr rm⟩

/-- Operand 1 in `svc`. -/
def op1 (g : Gpr) : Word := readOperandReg svc .svc (.regReg (byR3 .r2)) (.gpr g)

/-- Operand 2 in `svc`. -/
def op2 (g : Gpr) : Word := (shifter svc .svc (.regReg (byR3 g))).value

/-- The modes and saved images the clauses of `WritesResult` and `CopiesSpsr` split into: User; System, with no SPSR;
Supervisor with an illegal, a Thumb and a legal image. -/
theorem witness_modes_and_saved_images :
    Runs (before 0x00000010#32 0#32 0#32 0#32) .usr .al ∧ Runs (before 0x4000001F#32 0#32 0#32 0#32) .sys .eq ∧
    Runs (priv 0x00000013#32 0x00000000#32 0#32) .svc .ne ∧ psrMode 0x00000000#32 = none ∧
    Runs (priv 0x00000013#32 0x00000030#32 0#32) .svc .al ∧ psrMode 0x00000030#32 = some .usr ∧ psrThumb 0x00000030#32 = true ∧
    Runs svc .svc .al ∧ svc.spsr.get .svc = some 0x60000010#32 ∧ psrMode 0x60000010#32 = some .usr ∧
    psrThumb 0x60000010#32 = false ∧ (byR3 .r2).rs ≠ .pc := by
  simp only [Runs]; decide

theorem witness_AndWritesConjunction : Runs svc .svc .al ∧ (byR3 .r2).rs ≠ .pc ∧
    (op1 .r1 &&& op2 .r2).extractLsb' 0 2 = 0#2 ∧ (op1 .r5 &&& op2 .r4).extractLsb' 0 2 ≠ 0#2 := by
  simp only [Runs]; decide
theorem witness_EorWritesExclusiveOr : Runs svc .svc .al ∧ (byR3 .r2).rs ≠ .pc ∧
    (op1 .r1 ^^^ op2 .r2).extractLsb' 0 2 = 0#2 ∧ (op1 .r1 ^^^ op2 .r4).extractLsb' 0 2 ≠ 0#2 := by
  simp only [Runs]; decide
theorem witness_OrrWritesDisjunction : Runs svc .svc .al ∧ (byR3 .r2).rs ≠ .pc ∧
    (op1 .r1 ||| op2 .r2).extractLsb' 0 2 = 0#2 ∧ (op1 .r1 ||| op2 .r4).extractLsb' 0 2 ≠ 0#2 := by
  simp only [Runs]; decide
theorem witness_MovWritesOperand2 : Runs svc .svc .al ∧ (byR3 .r2).rs ≠ .pc ∧
    (op2 .r2).extractLsb' 0 2 = 0#2 ∧ (op2 .r4).extractLsb' 0 2 ≠ 0#2 := by
  simp only [Runs]; decide
theorem witness_BicClearsBits : Runs svc .svc .al ∧ (byR3 .r2).rs ≠ .pc ∧
    (op1 .r1 &&& ~~~op2 .r2).extractLsb' 0 2 = 0#2 ∧ (op1 .r5 &&& ~~~op2 .r2).extractLsb' 0 2 ≠ 0#2 := by
  simp only [Runs]; decide
theorem witness_MvnWritesComplement : Runs svc .svc .al ∧ (byR3 .r7).rs ≠ .pc ∧
    (~~~op2 .r7).extractLsb' 0 2 = 0#2 ∧ (~~~op2 .r2).extractLsb' 0 2 ≠ 0#2 := by
  simp only [Runs]; decide
theorem witness_SubWritesDifference : Runs svc .svc .al ∧ (byR3 .r2).rs ≠ .pc ∧
    (op1 .r1 - op2 .r2).extractLsb' 0 2 = 0#2 ∧ (op1 .r1 - op2 .r4).extractLsb' 0 2 ≠ 0#2 := by
  simp only [Runs]; decide
theorem witness_RsbWritesReverseDifference : Runs svc .svc .al ∧ (byR3 .r2).rs ≠ .pc ∧
    (op2 .r2 - op1 .r1).extractLsb' 0 2 = 0#2 ∧ (op2 .r4 - op1 .r1).extractLsb' 0 2 ≠ 0#2 := by
  simp only [Runs]; decide
theorem witness_AddWritesSum : Runs svc .svc .al ∧ (byR3 .r2).rs ≠ .pc ∧
    (op1 .r1 + op2 .r2).extractLsb' 0 2 = 0#2 ∧ (op1 .r1 + op2 .r4).extractLsb' 0 2 ≠ 0#2 := by
  simp only [Runs]; decide
theorem witness_AdcWritesSumWithCarry : Runs svc .svc .al ∧ (byR3 .r2).rs ≠ .pc ∧
    (op1 .r1 + op2 .r2 + BitVec.ofNat 32 svc.flags.c.toNat).extractLsb' 0 2 = 0#2 ∧ (op1 .r1 + op2 .r4 + BitVec.ofNat 32 svc.flags.c.toNat).extractLsb' 0 2 ≠ 0#2 := by
  simp only [Runs]; decide
theorem witness_SbcWritesDifferenceWithBorrow : Runs svc .svc .al ∧ (byR3 .r2).rs ≠ .pc ∧
    (op1 .r5 - op2 .r2 - BitVec.ofNat 32 (!svc.flags.c).toNat).extractLsb' 0 2 = 0#2 ∧ (op1 .r1 - op2 .r2 - BitVec.ofNat 32 (!svc.flags.c).toNat).extractLsb' 0 2 ≠ 0#2 := by
  simp only [Runs]; decide
theorem witness_RscWritesReverseDifferenceWithBorrow : Runs svc .svc .al ∧ (byR3 .r4).rs ≠ .pc ∧
    (op2 .r4 - op1 .r1 - BitVec.ofNat 32 (!svc.flags.c).toNat).extractLsb' 0 2 = 0#2 ∧ (op2 .r2 - op1 .r1 - BitVec.ofNat 32 (!svc.flags.c).toNat).extractLsb' 0 2 ≠ 0#2 := by
  simp only [Runs]; decide

/-- The clause of `WritesResult` on reading back: MOVS R13,R1 in Supervisor mode answers a next state. -/
theorem witness_result_reads_back :
    exec (.movRegImm .al true (.gpr .r0) (.gpr .r13) ⟨0#5, .lsl, .gpr .r1⟩) svc =
      .next { svc with regs := { svc.regs with r13svc := 0x00009000#32 }, pc := 0x00008004#32 } ∧ Gpr.r14 ≠ Gpr.r13 :=
  ⟨rfl, by decide⟩

theorem witness_tests_and_p_forms :
    Runs svc .svc .al ∧ Runs (before 0x90000010#32 0#32 0#32 0#32) .usr .mi ∧ Runs (priv 0x0000001F#32 0#32 0#32) .sys .al ∧
    (byR3 .r2).rs ≠ .pc := by
  simp only [Runs]; decide

theorem witness_DecodeEncodeAgree :
    (Instr.rscRegReg .le true .pc (.gpr .r14) ⟨.gpr .r14, .ror, .pc⟩).wellFormed = true := by decide

theorem witness_EncodeDecodeAgree : decodeWord 0xE1AF5000#32 = .ok (.movRegImm .al false .pc (.gpr .r5) ⟨0#5, .lsl, .gpr .r0⟩) := by decide

/-- A word of the table and one outside it. -/
theorem witness_AcceptedWordsAreTheTableRows :
    decodeWord 0xE3510005#32 = .ok (.cmpImm .al (.gpr .r1) (.gpr .r0) ⟨0#4, 5#8⟩) ∧
    0xE3510005#32 &&& 0x0FF00000#32 = 0x03500000#32 ∧ ⟨.cmp, .imm, 0x0FF00000#32, 0x03500000#32⟩ ∈ opcodeTable ∧
    ∀ r ∈ opcodeTable, 0xE0000291#32 &&& r.mask ≠ r.value := by decide

/-- MOV R0,#1 placed at pc 0x8000, little-endian and big-endian. -/
def placed (ord : ByteOrder) (w : Nat) : State :=
  { before 0x00000010#32 0#32 0#32 0#32 with params := ⟨.low, ord⟩ }.withFetchWord 32 w

theorem witness_StepRunsDecodedInstruction :
    psrThumb (placed .little 0xE3A00001).cpsr = false ∧ (fetchWord (placed .little 0xE3A00001)).toOption = some 0xE3A00001#32 ∧
    decodeWord 0xE3A00001#32 = .ok (.movImm .al false (.gpr .r0) (.gpr .r0) ⟨0#4, 1#8⟩) ∧
    (Instr.movImm .al false (.gpr .r0) (.gpr .r0) ⟨0#4, 1#8⟩).wellFormed = true := by decide

theorem witness_FetchReadsFourBytesInOrder :
    (placed .little 0xE3A0F001).pc.extractLsb' 0 2 = 0#2 ∧
    readByte (placed .little 0xE3A0F001).mem 0x8000 = some 0x01#8 ∧ readByte (placed .little 0xE3A0F001).mem 0x8001 = some 0xF0#8 ∧
    readByte (placed .little 0xE3A0F001).mem 0x8002 = some 0xA0#8 ∧ readByte (placed .little 0xE3A0F001).mem 0x8003 = some 0xE3#8 ∧
    readByte (placed .big 0xE3A0F001).mem 0x8000 = some 0xE3#8 ∧ readByte (placed .big 0xE3A0F001).mem 0x8001 = some 0xA0#8 ∧
    readByte (placed .big 0xE3A0F001).mem 0x8002 = some 0xF0#8 ∧ readByte (placed .big 0xE3A0F001).mem 0x8003 = some 0x01#8 := by decide

/-- Nothing placed, and only the last byte missing. -/
theorem witness_StepIsStuckOutsideProgramText :
    psrThumb svc.cpsr = false ∧ svc.pc.extractLsb' 0 2 = 0#2 ∧ readByte svc.mem (svc.pc + BitVec.ofNat 32 0).toNat = none ∧
    readByte [(0x8000, 1#8), (0x8001, 0#8), (0x8002, 0xA0#8)] (svc.pc + BitVec.ofNat 32 3).toNat = none := by decide

/-- A word for each branch of the statement, fetched in ARM state, and a state in Thumb state. -/
theorem witness_StepRefusesWordsOutsideTheScope :
    psrThumb (before 0x00000030#32 0#32 0#32 0#32).cpsr = true ∧ psrThumb (placed .little 0xF1A00000).cpsr = false ∧
    ∀ w ∈ [0xF1A00000, 0xE5910000, 0xE0000291, 0xE320F000, 0xE3A00001],
      (fetchWord (placed .little w)).toOption = some (BitVec.ofNat 32 w) := by decide

theorem witness_FailedConditionOnlyAdvancesPc :
    (Instr.addImm .eq true (.gpr .r1) .pc ⟨0#4, 3#8⟩).wellFormed = true ∧ svc.mode = some .svc ∧
    condHolds (Instr.addImm .eq true (.gpr .r1) .pc ⟨0#4, 3#8⟩).cond svc.flags = false := by decide

theorem witness_RsInPcFaultsWhateverTheCondition :
    (Instr.cmpRegReg .eq (.gpr .r1) (.gpr .r0) ⟨.pc, .lsl, .gpr .r2⟩).wellFormed = false ∧
    condHolds .eq svc.flags = false := by decide

/-- The rotate counts on both sides of the clause: 0, 1 and 15. -/
theorem witness_ImmediateOperandRotates :
    (⟨0#4, 1#8⟩ : ImmOperand).rotate = 0#4 ∧ (⟨1#4, 1#8⟩ : ImmOperand).rotate ≠ 0#4 ∧ (⟨15#4, 0xFF#8⟩ : ImmOperand).rotate ≠ 0#4 := by
  decide

/-- The least and the greatest amount, for each type. -/
theorem witness_ShiftByOneToThirtyOneMovesBits :
    ∀ ty ∈ [ShiftType.lsl, .lsr, .asr, .ror], ∀ n ∈ [1#5, 31#5],
      (⟨n, ty, .pc⟩ : ShiftImmOperand).amount ≠ 0#5 ∧ (⟨n, ty, .pc⟩ : ShiftImmOperand).ty = ty := by decide

/-- A state whose R3 holds an amount. -/
def amount (n : Word) : State := before 0x00000010#32 0#32 0x80000001#32 n

/-- The amounts at the clauses' ends: 0 (and 0x100, whose low byte is 0), 1, 31, 32, 33, 64 and 255. -/
theorem witness_register_amounts :
    amountOf (amount 0x00000100#32) .usr (byR3 .r2) = 0 ∧ amountOf (amount 1#32) .usr (byR3 .r2) = 1 ∧
    amountOf (amount 31#32) .usr (byR3 .r2) = 31 ∧ (byR3 .r2).rm ≠ .pc ∧
    (∀ ty ∈ [ShiftType.lsl, .lsr, .asr, .ror],
      amountOf (amount 32#32) .usr ⟨.gpr .r3, ty, .gpr .r2⟩ = 32 ∧ amountOf (amount 33#32) .usr ⟨.gpr .r3, ty, .gpr .r2⟩ = 32 * 1 + 1 ∧
      amountOf (amount 63#32) .usr ⟨.gpr .r3, ty, .gpr .r2⟩ = 32 * 1 + 31 ∧
      amountOf (amount 64#32) .usr ⟨.gpr .r3, ty, .gpr .r2⟩ = 32 * 1 + 32 ∧
      amountOf (amount 255#32) .usr ⟨.gpr .r3, ty, .gpr .r2⟩ = 32 * 7 + 31) := by decide

theorem witness_LogicalFlagsFollowTheResult :
    Runs svc .svc (Instr.tstImm .al (.gpr .r1) (.gpr .r0) ⟨0#4, 1#8⟩).cond ∧
    (Instr.tstImm .al (.gpr .r1) (.gpr .r0) ⟨0#4, 1#8⟩).wellFormed = true ∧
    (Instr.tstImm .al (.gpr .r1) (.gpr .r0) ⟨0#4, 1#8⟩).sBit = true ∧
    (Instr.tstImm .al (.gpr .r1) (.gpr .r0) ⟨0#4, 1#8⟩).fields.rd = .gpr .r0 ∧
    logicalResult .tst (op1 .r1) 1#32 = some 0#32 := by
  simp only [Runs]; decide

theorem witness_ArithmeticFlagsFollowTheAdder :
    Runs svc .svc (Instr.sbcImm .al true (.gpr .r1) (.gpr .r0) ⟨0#4, 1#8⟩).cond ∧
    (Instr.sbcImm .al true (.gpr .r1) (.gpr .r0) ⟨0#4, 1#8⟩).wellFormed = true ∧
    (Instr.sbcImm .al true (.gpr .r1) (.gpr .r0) ⟨0#4, 1#8⟩).sBit = true ∧
    (Instr.sbcImm .al true (.gpr .r1) (.gpr .r0) ⟨0#4, 1#8⟩).fields.rd = .gpr .r0 ∧
    adderInputs .sbc (op1 .r1) 1#32 svc.flags.c = some (0x00009000#32, 0xFFFFFFFE#32, false) := by
  simp only [Runs]; decide

/-- MOV PC,R1: S = 0, a next state, R15 written. -/
theorem witness_NoFlagIsWrittenWithSZero :
    (Instr.movRegImm .al false (.gpr .r0) .pc ⟨0#5, .lsl, .gpr .r1⟩).sBit = false ∧
    exec (.movRegImm .al false (.gpr .r0) .pc ⟨0#5, .lsl, .gpr .r1⟩) svc = .next { svc with pc := 0x00009000#32 } :=
  ⟨rfl, rfl⟩

/-- A legal state with a word placed, whose step answers a next state. -/
theorem witness_StepKeepsLegal :
    (placed .little 0xE1A00000).legal = true ∧
    step (placed .little 0xE1A00000) = .next { placed .little 0xE1A00000 with pc := 0x00008004#32 } :=
  ⟨by decide, rfl⟩

theorem witness_StepKeepsMemorySpsrsAndParameters :
    step (placed .big 0xE1A00000) = .next { placed .big 0xE1A00000 with pc := 0x00008004#32 } := rfl

/-- A register written, a failed condition and an S = 0 instruction, each with a next state in Supervisor mode. -/
theorem witness_FrameOfEveryInstruction :
    svc.mode = some .svc ∧
    exec (.movRegImm .al false (.gpr .r0) (.gpr .r13) ⟨0#5, .lsl, .gpr .r1⟩) svc =
      .next { svc with regs := { svc.regs with r13svc := 0x00009000#32 }, pc := 0x00008004#32 } ∧
    condHolds .eq svc.flags = false ∧
    exec (.movRegImm .eq true (.gpr .r0) .pc ⟨0#5, .lsl, .gpr .r1⟩) svc = .next { svc with pc := 0x00008004#32 } :=
  ⟨rfl, rfl, rfl, rfl⟩

/-- MOVS PC,R1 in Supervisor mode with a User image: bits 27 to 0 of CPSR change. -/
theorem witness_ModeChangesOnlyByRestoringCpsr :
    exec (.movRegImm .al true (.gpr .r0) .pc ⟨0#5, .lsl, .gpr .r1⟩) svc =
      .next { svc with cpsr := 0x60000010#32, pc := 0x00009000#32 } ∧
    (0x60000010#32).extractLsb' 0 28 ≠ svc.cpsr.extractLsb' 0 28 :=
  ⟨rfl, by decide⟩

theorem witness_UserModeStaysConfined :
    (placed .little 0xE1A00000).mode = some .usr ∧
    step (placed .little 0xE1A00000) = .next { placed .little 0xE1A00000 with pc := 0x00008004#32 } :=
  ⟨rfl, rfl⟩

/-- Two User-mode states that differ in an SPSR and in R13 of Supervisor mode. -/
theorem witness_UserModeLearnsNothingPrivileged :
    (placed .little 0xE1A00000).mode = some .usr ∧
    SameForUser (placed .little 0xE1A00000)
      { placed .little 0xE1A00000 with
        spsr := { SpsrFile.zero with svc := 1#32 }, regs := { (placed .little 0xE1A00000).regs with r13svc := 7#32 } } ∧
    placed .little 0xE1A00000 ≠
      { placed .little 0xE1A00000 with
        spsr := { SpsrFile.zero with svc := 1#32 }, regs := { (placed .little 0xE1A00000).regs with r13svc := 7#32 } } :=
  ⟨rfl, ⟨rfl, rfl, rfl, rfl, fun g => by cases g <;> rfl⟩, by decide⟩

/-- From User mode and from FIQ mode, for FIQ and for another exception, with an SPSR not that of the mode entered. -/
theorem witness_ExceptionEntryThenReturn :
    (before 0x60000010#32 0#32 0#32 0#32).mode = some .usr ∧ psrThumb (before 0x60000010#32 0#32 0#32 0#32).cpsr = false ∧
    (before 0x000000D1#32 0#32 0#32 0#32).mode = some .fiq ∧ (0x00008004#32).extractLsb' 0 2 = 0#2 ∧
    Exception.irq ≠ .fiq ∧ Mode.svc ≠ (vectorAndMode .irq).2 := by decide

/-- A form of each of the four counts, with a condition that holds and one that fails. -/
theorem witness_CycleCountsOfTable8 :
    condHolds .al svc.flags = true ∧ condHolds .eq svc.flags = false ∧
    instrCycles (.movImm .al false (.gpr .r0) (.gpr .r0) ⟨0#4, 1#8⟩) svc.flags = ⟨1, 0, 0⟩ ∧
    instrCycles (.cmpRegReg .al (.gpr .r0) .pc (byR3 .r2)) svc.flags = ⟨1, 0, 1⟩ ∧
    instrCycles (.movRegImm .al false (.gpr .r0) .pc ⟨0#5, .lsl, .gpr .r14⟩) svc.flags = ⟨2, 1, 0⟩ ∧
    instrCycles (.addRegReg .al false .pc .pc (byR3 .r2)) svc.flags = ⟨2, 1, 1⟩ := by decide

/-- An expression with a constant (the smallest rotate of several) and one with none. -/
theorem witness_AssembledConstantIsTheExpression :
    assembleConstant 0x000003FC#32 = some ⟨15#4, 0xFF#8⟩ ∧ assembleConstant 0x00000004#32 = some ⟨0#4, 4#8⟩ ∧
    assembleConstant 0x00000101#32 = none := by decide

/-- The source's examples E1 to E4 as lines, and TEQP; the least and the greatest amount; an operand 2 of each kind. -/
theorem witness_AssemblerConversions :
    (assemble (.binary .add (some .eq) false (.gpr .r2) (.gpr .r4) (.register (.gpr .r5)))).toOption.map encode = some 0x00842005#32 ∧
    (assemble (.test .teq none true false (.gpr .r4) (.expression 3#32))).toOption.map encode = some 0xE3340003#32 ∧
    (assemble (.binary .sub none false (.gpr .r4) (.gpr .r5) (.shifted (.gpr .r7) (.byRegister .lsr (.gpr .r2))))).toOption.map encode =
      some 0xE0454237#32 ∧
    (assemble (.test .teq none false true (.gpr .r0) (.expression 0#32))).toOption.map encode = some 0xE330F000#32 ∧
    (assemble (.move .mov none false .pc (.register (.gpr .r14)))).toOption.map encode = some 0xE1A0F00E#32 ∧
    (assembleOp2 (.shifted (.gpr .r1) (.byConstant .lsl 1))).toOption = some (.regImm ⟨1#5, .lsl, .gpr .r1⟩) ∧
    (assembleOp2 (.shifted (.gpr .r1) (.byConstant .ror 31))).toOption = some (.regImm ⟨31#5, .ror, .gpr .r1⟩) ∧
    (assembleOp2 (.expression 0xFF000000#32)).toOption = some (.imm ⟨4#4, 0xFF#8⟩) ∧
    assembleConstant 0x00000101#32 = none := by decide

end Sys2Proof.Tests
end

section
/-! The statements about the state of the core (10_state.md): every step keeps a state legal, a shift amount in
R15 stops an instruction, which copies a mode sees, and where the fields of a status register stand. -/

open Sys2Proof Sys2Proof.Machine Sys2Proof.Spec

namespace Sys2Proof.Machine

/-! ### Legal states -/

/-- The four parts of a legal state (70_reset_and_hazards.md R150). -/
theorem State.legal_iff (s : State) :
    s.legal = true ↔
      aligned s.pc = true ∧ s.mode.isSome = true ∧ psrThumb s.cpsr = false ∧ Memory.wf s.mem = true := by
  simp [State.legal, and_assoc]

/-- Going on by one instruction keeps the low two bits of an address, also where it wraps (log 18). -/
@[simp] theorem aligned_add_four (a : Word) : aligned (a + 4#32) = aligned a := by
  have low : (a + 4#32).extractLsb' 0 2 = a.extractLsb' 0 2 := by
    simp [← BitVec.setWidth_eq_extractLsb', BitVec.setWidth_add]
  simp [aligned, low]

@[simp] theorem State.advance_legal (s : State) : s.advance.legal = s.legal := by
  simp [State.legal]

@[simp] theorem State.writeReg_legal (s : State) (m : Mode) (g : Gpr) (v : Word) : (s.writeReg m g v).legal = s.legal := by
  simp [State.legal]

@[simp] theorem State.writeFlags_legal (s : State) (f : Flags) : (s.writeFlags f).legal = s.legal := by
  simp [State.legal]

/-- A word address for the pc keeps a state legal (10_state.md R15). -/
theorem State.legal_with_pc {s : State} {target : Word} (al : aligned target = true) (h : s.legal = true) :
    { s with pc := target }.legal = true := by
  obtain ⟨-, mode, arm, mem⟩ := s.legal_iff.mp h
  exact (State.legal_iff _).mpr ⟨al, mode, arm, mem⟩

/-- An image with a mode number and T = 0 for CPSR keeps a state legal (40_data_processing_common.md R74). -/
theorem State.legal_with_cpsr {s : State} {saved : Word} (mode : (psrMode saved).isSome = true)
    (arm : psrThumb saved = false) (h : s.legal = true) : { s with cpsr := saved }.legal = true := by
  obtain ⟨al, -, -, mem⟩ := s.legal_iff.mp h
  exact (State.legal_iff _).mpr ⟨al, mode, arm, mem⟩

/-- Whatever an instruction does when its condition holds, it keeps a state legal: a jump and a return check their
target, a return and a P form the image they restore. -/
theorem Executes.keeps_legal {f : Fields} {m : Mode} {s t : State} (e : Executes f m s t) (h : s.legal = true) :
    t.legal = true := by
  cases e with
  | writesRegister g _ _ => cases f.s <;> simp [h]
  | jumps _ _ _ al => exact State.legal_with_pc al h
  | returns saved _ _ _ _ al _ mode arm => exact State.legal_with_pc al (State.legal_with_cpsr mode arm h)
  | testsFlags g _ _ => simp [h]
  | teqpInUserMode _ _ _ => simp [h]
  | pForm saved _ _ _ _ mode arm =>
    have restored := State.legal_with_cpsr mode arm h
    exact (State.advance_legal { s with cpsr := saved }).trans restored

/-- Every instruction keeps a state legal, its condition holding or not. -/
theorem exec_keeps_legal {i : Instr} {s t : State} (e : exec i s = .next t) (h : s.legal = true) : t.legal = true := by
  obtain ⟨-, m, -, ⟨-, rfl⟩ | ⟨-, run⟩⟩ := exec_next e
  · simp [h]
  · exact run.keeps_legal h

/-! ### A shift amount in R15 -/

theorem shiftAmountInPc_iff (o : Operand2) : shiftAmountInPc o = true ↔ ∃ r, o = .regReg r ∧ r.rs = .pc := by
  cases o <;> simp [shiftAmountInPc]

theorem wellFormed_eq_false_iff (i : Instr) : i.wellFormed = false ↔ shiftAmountInPc i.fields.op2 = true := by
  simp [wellFormed_eq]

/-- The first check of 60_exceptions.md R143, made before the mode and the condition are looked at (log 10). -/
theorem issue_shiftAmountInPc {o : Operand2} (h : shiftAmountInPc o = true) (c : Cond) (s : State) (run : Mode → Answer) :
    issue c o s run = .fault .shiftAmountInPc := by
  simp [issue, h]

/-! ### The copies a mode sees -/

theorem State.readReg_eq_copySeen (s : State) (m : Mode) (g : Gpr) : s.readReg m g = copySeen s.regs m g := by
  cases g <;> cases m <;> rfl

theorem RegFile.set_bank_eq_copyReplaced (f : RegFile) (v : Word) (m : Mode) (g : Gpr) :
    f.set (bank m g) v = copyReplaced f v m g := by
  cases g <;> cases m <;> rfl

/-! ### The places of a status register -/

/-- The seven mode numbers, and no mode for any other number (10_state.md R16). -/
theorem modeOfBits_eq_ite : ∀ b : BitVec 5, modeOfBits b =
    if b = 0b10000#5 then some .usr
    else if b = 0b10001#5 then some .fiq
    else if b = 0b10010#5 then some .irq
    else if b = 0b10011#5 then some .svc
    else if b = 0b10111#5 then some .abt
    else if b = 0b11011#5 then some .und
    else if b = 0b11111#5 then some .sys
    else none := by decide

end Sys2Proof.Machine

namespace Sys2Proof.Proofs

/-- Settles O48: a step that answers a next state executed an instruction, and each thing an instruction can do keeps a
state legal. -/
theorem stepKeepsLegal : Obligations.StepKeepsLegal := by
  unfold Obligations.StepKeepsLegal
  intro s t legal next
  obtain ⟨-, w, i, -, -, run⟩ := step_next.mp next
  exact exec_keeps_legal run legal

/-- Settles O11: ill-formed means Rs = R15, which `issue` checks before anything else. -/
theorem rsInPcFaultsWhateverTheCondition : Obligations.RsInPcFaultsWhateverTheCondition := by
  unfold Obligations.RsInPcFaultsWhateverTheCondition
  intro i s
  refine ⟨(wellFormed_eq_false_iff i).trans (shiftAmountInPc_iff _), fun illFormed => ?_⟩
  rw [exec_eq_issue]
  exact issue_shiftAmountInPc ((wellFormed_eq_false_iff i).mp illFormed) _ _ _

/-- Settles O59, copy by copy and SPSR by SPSR. -/
theorem eachModeSeesItsCopies : Obligations.EachModeSeesItsCopies := by
  unfold Obligations.EachModeSeesItsCopies
  refine ⟨State.readReg_eq_copySeen, fun s m g v => ?_, fun f => ?_, fun f v => ?_⟩
  · have copy := RegFile.set_bank_eq_copyReplaced s.regs v m g
    exact ⟨copy, by rw [State.writeReg, copy]⟩
  · exact ⟨rfl, rfl, rfl, rfl, rfl, rfl, rfl⟩
  · exact ⟨rfl, rfl, rfl, rfl, rfl, rfl, rfl⟩

/-- Settles O60: the flags by reading back a written status word, the mode by the seven mode numbers. -/
theorem statusRegisterLayout : Obligations.StatusRegisterLayout := by
  unfold Obligations.StatusRegisterLayout
  refine ⟨fun s => ⟨rfl, rfl, rfl, rfl, rfl⟩, fun p f => ?_, fun p => rfl, fun p => ?_⟩
  · have readBack := psrFlags_psrWithFlags p f
    exact ⟨congrArg Flags.n readBack, congrArg Flags.z readBack, congrArg Flags.c readBack, congrArg Flags.v readBack,
      psrWithFlags_low p f⟩
  · exact modeOfBits_eq_ite _

end Sys2Proof.Proofs
end

section
/-! The statements about memory (20_memory.md): no step changes it, no instruction reads it, and what the fetch at the
pc gives, the word of the four bytes there or the stuck stop. -/

open Sys2Proof Sys2Proof.Machine Sys2Proof.Spec

namespace Sys2Proof.Machine

/-! ### What no instruction changes -/

/-- Memory, the SPSRs and the parameters of one state are those of another: what no instruction in scope writes
(20_memory.md R32, 10_state.md R19, 40_data_processing_common.md R72). -/
structure SameStore (s t : State) : Prop where
  mem : t.mem = s.mem
  spsr : t.spsr = s.spsr
  params : t.params = s.params

/-- Whatever an instruction does when its condition holds, it writes registers, CPSR and the pc only. -/
theorem Executes.sameStore {f : Fields} {m : Mode} {s t : State} (e : Executes f m s t) : SameStore s t := by
  cases e with
  | writesRegister g _ _ => cases f.s <;> exact ⟨rfl, rfl, rfl⟩
  | jumps _ _ _ _ => exact ⟨rfl, rfl, rfl⟩
  | returns saved _ _ _ _ _ _ _ _ => exact ⟨rfl, rfl, rfl⟩
  | testsFlags g _ _ => exact ⟨rfl, rfl, rfl⟩
  | teqpInUserMode _ _ _ => exact ⟨rfl, rfl, rfl⟩
  | pForm saved _ _ _ _ _ _ => exact ⟨rfl, rfl, rfl⟩

theorem exec_sameStore {i : Instr} {s t : State} (e : exec i s = .next t) : SameStore s t := by
  obtain ⟨-, m, -, ⟨-, rfl⟩ | ⟨-, run⟩⟩ := exec_next e
  · exact ⟨rfl, rfl, rfl⟩
  · exact run.sameStore

/-! ### Executing with another memory -/

/-- An answer with its next state's memory replaced; a stop has no memory. -/
def answerWithMem (mem : Memory) : Answer → Answer
  | .next t => .next { t with mem := mem }
  | .fault f => .fault f
  | .refused r => .refused r

@[simp] theorem answerWithMem_next (mem : Memory) (t : State) :
    answerWithMem mem (.next t) = .next { t with mem := mem } := rfl
@[simp] theorem answerWithMem_fault (mem : Memory) (f : Fault) : answerWithMem mem (.fault f) = .fault f := rfl
@[simp] theorem answerWithMem_refused (mem : Memory) (r : Refusal) : answerWithMem mem (.refused r) = .refused r := rfl

/-- An operation that does the same for every content of memory (20_memory.md R32). -/
def IgnoresMem (run : State → Answer) : Prop :=
  ∀ (s : State) (mem : Memory), run { s with mem := mem } = answerWithMem mem (run s)

/-- Two operations one after the other ignore memory when both do. -/
theorem IgnoresMem.andThen {run next : State → Answer} (hrun : IgnoresMem run) (hnext : IgnoresMem next) :
    IgnoresMem fun s => andThen (run s) next := by
  intro s mem
  simp only [hrun s mem]
  cases run s with
  | next t => exact hnext t mem
  | fault f => rfl
  | refused r => rfl

theorem advance_ignoresMem : IgnoresMem fun s => .next s.advance := fun _ _ => rfl

theorem jump_ignoresMem (target : Word) : IgnoresMem (jump target) := by
  intro s mem
  unfold jump
  split <;> rfl

/-- Copying an SPSR looks at the SPSR alone (40_data_processing_common.md R69, R70, R74). -/
theorem copySpsr_ignoresMem (m : Mode) : IgnoresMem (copySpsr m) := by
  intro s mem
  cases has : s.spsr.get m with
  | none => simp [copySpsr, has]
  | some saved =>
    cases mode : psrMode saved with
    | none => simp [copySpsr, has, mode]
    | some _ => cases thumb : psrThumb saved <;> simp [copySpsr, has, mode, thumb]

theorem returnFromException_ignoresMem (m : Mode) (target : Word) : IgnoresMem (returnFromException m target) := by
  intro s mem
  unfold returnFromException
  split
  · rfl
  · exact (copySpsr_ignoresMem m).andThen (jump_ignoresMem target) s mem

theorem writeResult_ignoresMem (m : Mode) (sBit : Bool) (rd : Reg) (out : AluOut) :
    IgnoresMem (writeResult m sBit rd out) := by
  intro s mem
  cases rd with
  | gpr g => cases sBit <;> rfl
  | pc =>
    cases sBit with
    | false => exact jump_ignoresMem out.result s mem
    | true => exact returnFromException_ignoresMem m out.result s mem

theorem finishTest_ignoresMem (m : Mode) (isTeq : Bool) (rd : Reg) (out : AluOut) :
    IgnoresMem (finishTest m isTeq rd out) := by
  intro s mem
  cases rd with
  | gpr g => rfl
  | pc =>
    simp only [finishTest]
    split
    · cases isTeq <;> rfl
    · exact (copySpsr_ignoresMem m).andThen advance_ignoresMem s mem

/-- What an instruction computes, it computes from registers, the pc, the flags and the parameters. -/
@[simp] theorem fieldsOut_mem (f : Fields) (m : Mode) (s : State) (mem : Memory) :
    fieldsOut f m { s with mem := mem } = fieldsOut f m s := by
  simp only [fieldsOut, readOperandReg_mem, shifter_mem]
  rfl

theorem finishFields_ignoresMem (f : Fields) (m : Mode) : IgnoresMem (finishFields f m) := by
  intro s mem
  simp only [finishFields, fieldsOut_mem]
  split
  · exact finishTest_ignoresMem m _ f.rd _ s mem
  · exact writeResult_ignoresMem m f.s f.rd _ s mem

/-- The checks before an instruction look at operand 2, the mode and the flags (60_exceptions.md R143). -/
theorem issue_ignoresMem (c : Cond) (o : Operand2) {run : Mode → State → Answer} (hrun : ∀ m, IgnoresMem (run m)) :
    IgnoresMem fun s => issue c o s fun m => run m s := by
  intro s mem
  have sameMode : State.mode { s with mem := mem } = s.mode := rfl
  have sameFlags : State.flags { s with mem := mem } = s.flags := rfl
  simp only [issue, sameMode, sameFlags]
  split
  · rfl
  · cases s.mode with
    | none => rfl
    | some m =>
      cases condHolds c s.flags with
      | false => rfl
      | true => exact hrun m s mem

theorem exec_ignoresMem (i : Instr) : IgnoresMem (exec i) := by
  intro s mem
  rw [exec_eq_issue, exec_eq_issue]
  exact issue_ignoresMem i.fields.cond i.fields.op2 (finishFields_ignoresMem i.fields) s mem

/-! ### Fetch -/

/-- In ARM state a step is its fetched word's instruction, well formed or not. -/
theorem step_eq_exec {s : State} {w : Word} {i : Instr} (arm : psrThumb s.cpsr = false) (fetch : fetchWord s = .ok w)
    (decode : decodeWord w = .ok i) : step s = exec i s := by
  simp [step, arm, fetch, decode]

/-- In ARM state a fetch that cannot be made stops the step (20_memory.md R33, R34). -/
theorem step_eq_fault {s : State} {f : Fault} (arm : psrThumb s.cpsr = false) (fetch : fetchWord s = .error f) :
    step s = .fault f := by
  simp [step, arm, fetch]

theorem aligned_iff (a : Word) : aligned a = true ↔ a.extractLsb' 0 2 = 0#2 := by
  simp [aligned]

theorem byteAddr_zero (a : Word) : byteAddr a 0 = a.toNat := by
  simp [byteAddr]

/-- A word is read where its four bytes are (20_memory.md R31). -/
theorem readWord_of_bytes {mem : Memory} {a : Word} {b0 b1 b2 b3 : Byte} (ord : ByteOrder)
    (h0 : readByte mem (byteAddr a 0) = some b0) (h1 : readByte mem (byteAddr a 1) = some b1)
    (h2 : readByte mem (byteAddr a 2) = some b2) (h3 : readByte mem (byteAddr a 3) = some b3) :
    readWord ord mem a = some (wordOfBytes ord b0 b1 b2 b3) := by
  simp only [readWord, h0, h1, h2, h3]

/-- No word is read where one of the four bytes is missing (20_memory.md R34). -/
theorem readWord_of_missing_byte {mem : Memory} {a : Word} {k : Fin 4} (ord : ByteOrder)
    (missing : readByte mem (byteAddr a k) = none) : readWord ord mem a = none := by
  unfold readWord
  split
  · next h0 h1 h2 h3 =>
    have present : ∀ j, readByte mem (byteAddr a j) ≠ none := by
      simp [Fin.forall_fin_succ, h0, h1, h2, h3]
    exact absurd missing (present k)
  · rfl

/-- A fetch at a word address stops when no word is there (20_memory.md R34, D21). -/
theorem fetchWord_outside {s : State} (al : aligned s.pc = true)
    (outside : readWord s.params.byteOrder s.mem s.pc = none) : fetchWord s = .error .fetchOutsideProgramText := by
  simp [fetchWord, al, outside]

end Sys2Proof.Machine

namespace Sys2Proof.Proofs

/-- Settles O49: a step that answers a next state executed an instruction, and none writes memory, an SPSR or a
parameter. -/
theorem stepKeepsMemorySpsrsAndParameters : Obligations.StepKeepsMemorySpsrsAndParameters := by
  unfold Obligations.StepKeepsMemorySpsrsAndParameters
  intro s t next
  obtain ⟨-, w, i, -, -, run⟩ := step_next.mp next
  obtain ⟨mem, spsr, params⟩ := exec_sameStore run
  exact ⟨fun a => by rw [mem], mem, spsr, params⟩

/-- Settles O50, operation by operation: each part of an instruction ignores memory. -/
theorem executionReadsNoMemory : Obligations.ExecutionReadsNoMemory := by
  unfold Obligations.ExecutionReadsNoMemory
  intro i s mem
  rw [exec_ignoresMem i s mem]
  cases exec i s <;> rfl

/-- Settles O5: the three checks of a step pass. -/
theorem stepRunsDecodedInstruction : Obligations.StepRunsDecodedInstruction := by
  unfold Obligations.StepRunsDecodedInstruction
  intro s w i arm fetch decode _
  exact step_eq_exec arm fetch decode

/-- Settles O6: the word at the pc, spelt in each of the two byte orders. -/
theorem fetchReadsFourBytesInOrder : Obligations.FetchReadsFourBytesInOrder := by
  unfold Obligations.FetchReadsFourBytesInOrder
  intro s b0 b1 b2 b3 al h0 h1 h2 h3
  have fetch : fetchWord s = .ok (wordOfBytes s.params.byteOrder b0 b1 b2 b3) :=
    fetchWord_ok.mpr ⟨(aligned_iff _).mpr al, readWord_of_bytes _ (by rwa [byteAddr_zero]) h1 h2 h3⟩
  exact ⟨fun little => by rw [fetch, little]; rfl, fun big => by rw [fetch, big]; rfl⟩

/-- Settles O7: with a byte missing there is no word at the pc, so the fetch stops and the step with it. -/
theorem stepIsStuckOutsideProgramText : Obligations.StepIsStuckOutsideProgramText := by
  unfold Obligations.StepIsStuckOutsideProgramText
  intro s k arm al missing
  have outside : readWord s.params.byteOrder s.mem s.pc = none := readWord_of_missing_byte _ missing
  exact step_eq_fault arm (fetchWord_outside ((aligned_iff _).mpr al) outside)

end Sys2Proof.Proofs
end

section
/-! The statements about the instruction format (30_encoding.md): the decoder and the encoder undo each other, which
words are accepted and which refused, the condition table, and the assembler's conversions. -/

open Sys2Proof Sys2Proof.Machine Sys2Proof.Spec

namespace Sys2Proof

/-! ### Bit fields of a word -/

/-- A field of one bit. -/
theorem extractLsb'_one (w : Word) (i : Nat) : w.extractLsb' i 1 = BitVec.ofBool (w.getLsbD i) := by
  refine BitVec.eq_of_getLsbD_eq fun k hk => ?_
  obtain rfl : k = 0 := by omega
  simp

theorem extractLsb'_one_eq_zero (w : Word) (i : Nat) : w.extractLsb' i 1 = 0b0#1 ↔ w.getLsbD i = false := by
  rw [extractLsb'_one]; exact BitVec.ofBool_eq_iff_eq (b' := false)

theorem extractLsb'_one_eq_one (w : Word) (i : Nat) : w.extractLsb' i 1 = 0b1#1 ↔ w.getLsbD i = true := by
  rw [extractLsb'_one]; exact BitVec.ofBool_eq_iff_eq (b' := true)

/-- The fields of 30_encoding.md R41, side by side, are the word. -/
theorem word_eq_append_fields (w : Word) :
    w.extractLsb' 28 4 ++ (w.extractLsb' 26 2 ++ (w.extractLsb' 25 1 ++ (w.extractLsb' 21 4 ++
      (w.extractLsb' 20 1 ++ (w.extractLsb' 16 4 ++ (w.extractLsb' 12 4 ++ w.extractLsb' 0 12)))))) = w := by
  simp (disch := decide) only [BitVec.extractLsb'_append_extractLsb'_eq_extractLsb']
  exact BitVec.extractLsb'_eq_self

/-- The parts of operand 2 with an amount in the instruction, side by side (30_encoding.md R43). -/
theorem regImmBits_eq_append (w : Word) :
    w.extractLsb' 7 5 ++ (w.extractLsb' 5 2 ++ (w.extractLsb' 4 1 ++ w.extractLsb' 0 4)) = w.extractLsb' 0 12 := by
  simp (disch := decide) only [BitVec.extractLsb'_append_extractLsb'_eq_extractLsb']

/-- The parts of operand 2 with an amount in a register, side by side (30_encoding.md R44). -/
theorem regRegBits_eq_append (w : Word) :
    w.extractLsb' 8 4 ++ (w.extractLsb' 7 1 ++ (w.extractLsb' 5 2 ++ (w.extractLsb' 4 1 ++ w.extractLsb' 0 4))) =
      w.extractLsb' 0 12 := by
  simp (disch := decide) only [BitVec.extractLsb'_append_extractLsb'_eq_extractLsb']

/-- The parts of an immediate operand 2, side by side (30_encoding.md R42). -/
theorem immBits_eq_append (w : Word) : w.extractLsb' 8 4 ++ w.extractLsb' 0 8 = w.extractLsb' 0 12 :=
  BitVec.extractLsb'_append_extractLsb'_eq_extractLsb' rfl

/-! ### The fields of an encoded word (30_encoding.md R41) -/

theorem Fields.word_fields (f : Fields) :
    f.word.extractLsb' 28 4 = f.cond.bits ∧ f.word.extractLsb' 26 2 = 0b00#2 ∧ f.word.extractLsb' 21 4 = f.op.bits ∧
    f.word.extractLsb' 16 4 = f.rn.bits ∧ f.word.extractLsb' 12 4 = f.rd.bits ∧ f.word.extractLsb' 0 12 = f.op2.bits.2 := by
  refine ⟨?_, ?_, ?_, ?_, ?_, ?_⟩ <;>
    simp (disch := decide) only [Fields.word, BitVec.extractLsb'_append_eq_of_add_le, BitVec.extractLsb'_append_eq_of_le] <;>
    exact BitVec.extractLsb'_eq_self

theorem Fields.word_immBit (f : Fields) : f.word.getLsbD 25 = f.op2.bits.1 := f.word_getLsbD (by decide)

theorem Fields.word_sBit (f : Fields) : f.word.getLsbD 20 = f.s := f.word_getLsbD (by decide)

/-- The low twelve bits of an encoded word are those of its operand 2. -/
theorem Fields.word_op2Bit (f : Fields) {i : Nat} (hi : i < 12) : f.word.getLsbD i = f.op2.bits.2.getLsbD i := by
  simp [f.word_getLsbD (show i < 32 by omega), hi]

/-! ### Operand 2, decoded and encoded -/

/-- A field inside the twelve operand-2 bits of a word. -/
theorem extractLsb'_of_op2Field {w : Word} {b : BitVec 12} (h : w.extractLsb' 0 12 = b) {start len : Nat}
    (fits : start + len ≤ 12) : w.extractLsb' start len = b.extractLsb' start len := by
  rw [← h, BitVec.extractLsb'_extractLsb'_of_le fits]

/-- The parts of the operand-2 bits of each form (30_encoding.md R42, R43, R44). -/
theorem Operand2.bits_imm_parts (o : ImmOperand) :
    (Operand2.imm o).bits.2.extractLsb' 8 4 = o.rotate ∧ (Operand2.imm o).bits.2.extractLsb' 0 8 = o.imm8 :=
  ⟨BitVec.extractLsb'_append_eq_left, BitVec.extractLsb'_append_eq_right⟩

theorem Operand2.bits_regImm_parts (o : ShiftImmOperand) :
    (Operand2.regImm o).bits.2.extractLsb' 7 5 = o.amount ∧ (Operand2.regImm o).bits.2.extractLsb' 5 2 = o.ty.bits ∧
    (Operand2.regImm o).bits.2.extractLsb' 0 4 = o.rm.bits := by
  refine ⟨?_, ?_, ?_⟩ <;>
    simp (disch := decide) only [Operand2.bits, BitVec.extractLsb'_append_eq_of_add_le, BitVec.extractLsb'_append_eq_of_le] <;>
    exact BitVec.extractLsb'_eq_self

theorem Operand2.bits_regReg_parts (o : ShiftRegOperand) :
    (Operand2.regReg o).bits.2.extractLsb' 8 4 = o.rs.bits ∧ (Operand2.regReg o).bits.2.extractLsb' 5 2 = o.ty.bits ∧
    (Operand2.regReg o).bits.2.extractLsb' 0 4 = o.rm.bits := by
  refine ⟨?_, ?_, ?_⟩ <;>
    simp (disch := decide) only [Operand2.bits, BitVec.extractLsb'_append_eq_of_add_le, BitVec.extractLsb'_append_eq_of_le] <;>
    exact BitVec.extractLsb'_eq_self

/-- A word with the I bit and the operand-2 bits of an operand decodes to that operand. -/
theorem decodeOperand2_of_bits {w : Word} {o : Operand2} (immBit : w.getLsbD 25 = o.bits.1)
    (low : w.extractLsb' 0 12 = o.bits.2) : decodeOperand2 w = o := by
  have part {start len : Nat} (fits : start + len ≤ 12) := extractLsb'_of_op2Field low fits
  have bit4 : w.getLsbD 4 = o.bits.2.getLsbD 4 := by simp [← low]
  have form := o.bits_form
  cases o with
  | imm o =>
    obtain ⟨rotate, imm8⟩ := Operand2.bits_imm_parts o
    simp [decodeOperand2, immBit, form, part, rotate, imm8]
  | regImm o =>
    obtain ⟨i0, b4⟩ := form
    obtain ⟨amount, ty, rm⟩ := Operand2.bits_regImm_parts o
    simp only [decodeOperand2, immBit, i0, bit4, b4, Bool.false_eq_true, if_false, part (show 7 + 5 ≤ 12 by decide),
      part (show 5 + 2 ≤ 12 by decide), part (show 0 + 4 ≤ 12 by decide), amount, ty, rm, ShiftType.ofBits_bits, Reg.ofBits_bits]
  | regReg o =>
    obtain ⟨i0, b4, -⟩ := form
    obtain ⟨rs, ty, rm⟩ := Operand2.bits_regReg_parts o
    simp only [decodeOperand2, immBit, i0, bit4, b4, Bool.false_eq_true, if_false, if_true,
      part (show 8 + 4 ≤ 12 by decide), part (show 5 + 2 ≤ 12 by decide), part (show 0 + 4 ≤ 12 by decide), rs, ty, rm,
      ShiftType.ofBits_bits, Reg.ofBits_bits]

/-- The form the decoder reads (30_encoding.md R53 step 5). -/
theorem formOf_decodeOperand2 (w : Word) :
    formOf (decodeOperand2 w) = if w.getLsbD 25 then .imm else if w.getLsbD 4 then .regReg else .regImm := by
  unfold decodeOperand2
  split
  · rfl
  · split <;> rfl

/-- The operand 2 that the decoder reads keeps the I bit and the operand-2 bits, but for bit 7 of a word that is no
data-processing instruction (30_encoding.md R49). -/
theorem bits_decodeOperand2 {w : Word} (notMultiply : w.getLsbD 25 = false → w.getLsbD 4 = true → w.getLsbD 7 = false) :
    (decodeOperand2 w).bits = (w.getLsbD 25, w.extractLsb' 0 12) := by
  unfold decodeOperand2
  split
  · next immBit => simp only [Operand2.bits, immBit, immBits_eq_append]
  · next immBit =>
    have immBit : w.getLsbD 25 = false := by simpa using immBit
    split
    · next bit4 =>
      have one := (extractLsb'_one_eq_one w 4).mpr bit4
      have zero := (extractLsb'_one_eq_zero w 7).mpr (notMultiply immBit bit4)
      simp only [Operand2.bits, immBit, Reg.bits_ofBits, ShiftType.bits_ofBits, ← one, ← zero, regRegBits_eq_append]
    · next bit4 =>
      have zero := (extractLsb'_one_eq_zero w 4).mpr (by simpa using bit4)
      simp only [Operand2.bits, immBit, Reg.bits_ofBits, ShiftType.bits_ofBits, ← zero, regImmBits_eq_append]

/-! ### The decoder, branch by branch -/

/-- The fields that the decoder reads from a word with a given condition (30_encoding.md R53 step 5). -/
def decodedFields (w : Word) (c : Cond) : Fields where
  op := .ofBits (w.extractLsb' 21 4)
  cond := c
  s := w.getLsbD 20
  rn := .ofBits (w.extractLsb' 16 4)
  rd := .ofBits (w.extractLsb' 12 4)
  op2 := decodeOperand2 w

/-- What steps 2 to 4 of 30_encoding.md R53 ask of a word. -/
structure IsDataProcessing (w : Word) : Prop where
  /-- R3. -/
  inClass : w.extractLsb' 26 2 = 0b00#2
  /-- R49. -/
  notMultiply : w.getLsbD 25 = false → w.getLsbD 4 = true → w.getLsbD 7 = false
  /-- R50. -/
  testSetsS : w.extractLsb' 23 2 = 0b10#2 → w.getLsbD 20 = true

/-- Step 1 of 30_encoding.md R53. -/
theorem decodeWord_of_cond_none {w : Word} (h : Cond.ofBits (w.extractLsb' 28 4) = none) :
    decodeWord w = .error .cond1111 := by
  simp only [decodeWord, h]

/-- Steps 2 to 5 of 30_encoding.md R53. -/
theorem decodeWord_of_cond_some {w : Word} {c : Cond} (h : Cond.ofBits (w.extractLsb' 28 4) = some c) :
    decodeWord w =
      if w.extractLsb' 26 2 ≠ 0b00#2 then .error .notDataProcessing
      else if w.getLsbD 25 = false ∧ w.getLsbD 4 = true ∧ w.getLsbD 7 = true then .error .multiplyOrUnknown
      else if w.extractLsb' 23 2 = 0b10#2 ∧ w.getLsbD 20 = false then .error .testOpcodeWithSZero
      else .ok (decodedFields w c).instr := by
  simp [decodeWord, h, decodedFields, and_assoc]

/-- The words that the decoder accepts and what it reads from them (30_encoding.md R53). -/
theorem decodeWord_ok {w : Word} {i : Instr} :
    decodeWord w = .ok i ↔
      IsDataProcessing w ∧ ∃ c, Cond.ofBits (w.extractLsb' 28 4) = some c ∧ i = (decodedFields w c).instr := by
  cases cond : Cond.ofBits (w.extractLsb' 28 4) with
  | none => simp [decodeWord_of_cond_none cond]
  | some c =>
    rw [decodeWord_of_cond_some cond]
    constructor
    · intro h
      split at h
      · cases h
      · next inClass =>
        split at h
        · cases h
        · next notMultiply =>
          split at h
          · cases h
          · next testSetsS =>
            simp only [Except.ok.injEq] at h
            exact ⟨⟨by simpa using inClass, by simpa using notMultiply, by simpa using testSetsS⟩, c, rfl, h.symm⟩
    · rintro ⟨⟨inClass, notMultiply, testSetsS⟩, _, ⟨⟩, rfl⟩
      rw [if_neg (not_not_intro inClass), if_neg, if_neg]
      · rintro ⟨test, sClear⟩
        exact Bool.false_ne_true (sClear.symm.trans (testSetsS test))
      · rintro ⟨immBit, bit4, bit7⟩
        exact Bool.false_ne_true ((notMultiply immBit bit4).symm.trans bit7)

/-- The opcode field of a test has 10 in bits 24 and 23 of the word (30_encoding.md R50). -/
theorem decodedFields_isTest (w : Word) (c : Cond) :
    (decodedFields w c).op.isTest = true ↔ w.extractLsb' 23 2 = 0b10#2 := by
  have field : (w.extractLsb' 21 4).extractLsb' 2 2 = w.extractLsb' 23 2 := by
    refine BitVec.eq_of_getLsbD_eq fun i hi => ?_
    interval_cases i <;> simp
  simp only [decodedFields, Opcode.isTest_eq, Opcode.bits_ofBits, field, beq_iff_eq]

/-- The instruction of an accepted word has the fields of the word. -/
theorem fields_of_decodeWord {w : Word} {i : Instr} (h : decodeWord w = .ok i) :
    IsDataProcessing w ∧ ∃ c, Cond.ofBits (w.extractLsb' 28 4) = some c ∧ i.fields = decodedFields w c := by
  obtain ⟨dp, c, cond, rfl⟩ := decodeWord_ok.mp h
  exact ⟨dp, c, cond, Fields.fields_instr _ fun test => dp.testSetsS ((decodedFields_isTest w c).mp test)⟩

/-- The fields of an accepted word, encoded, are the word. -/
theorem decodedFields_word {w : Word} {c : Cond} (dp : IsDataProcessing w)
    (cond : Cond.ofBits (w.extractLsb' 28 4) = some c) : (decodedFields w c).word = w := by
  obtain ⟨inClass, notMultiply, -⟩ := dp
  conv_rhs => rw [← word_eq_append_fields w]
  simp only [Fields.word, decodedFields, bits_decodeOperand2 notMultiply, Opcode.bits_ofBits, Reg.bits_ofBits,
    Cond.bits_ofBits _ c cond, inClass, extractLsb'_one]

/-- An encoded word with S = 1 for a test passes steps 2 to 4 of 30_encoding.md R53. -/
theorem Fields.word_isDataProcessing (f : Fields) (h : f.op.isTest = true → f.s = true) : IsDataProcessing f.word := by
  obtain ⟨-, inClass, op, -, -, -⟩ := f.word_fields
  have form := f.op2.bits_form
  refine ⟨inClass, fun immBit bit4 => ?_, fun test => ?_⟩
  · rw [f.word_immBit] at immBit
    rw [f.word_op2Bit (by decide)] at bit4 ⊢
    cases o : f.op2 <;> simp_all
  · rw [f.word_sBit]
    have isTest := (decodedFields_isTest f.word f.cond).mpr test
    simp only [decodedFields, op, Opcode.ofBits_bits] at isTest
    exact h isTest

/-- The fields read from an encoded word are those it was made of. -/
theorem decodedFields_of_word (f : Fields) : decodedFields f.word f.cond = f := by
  obtain ⟨-, -, op, rn, rd, low⟩ := f.word_fields
  simp only [decodedFields, op, rn, rd, f.word_sBit, decodeOperand2_of_bits f.word_immBit low, Opcode.ofBits_bits,
    Reg.ofBits_bits]

/-- The word of every instruction decodes to it, well formed or not. -/
theorem decodeWord_encode (i : Instr) : decodeWord (encode i) = .ok i := by
  obtain ⟨cond, -, -, -, -, -⟩ := i.fields.word_fields
  refine decodeWord_ok.mpr ⟨i.fields.word_isDataProcessing i.test_sBit, i.cond, ?_, ?_⟩
  · rw [encode, cond, Cond.ofBits_bits]; rfl
  · rw [encode, Instr.cond, decodedFields_of_word, Instr.instr_fields]

/-- An accepted word is the word of its instruction. -/
theorem encode_of_decodeWord {w : Word} {i : Instr} (h : decodeWord w = .ok i) : encode i = w := by
  obtain ⟨dp, c, cond, fields⟩ := fields_of_decodeWord h
  rw [encode, fields, decodedFields_word dp cond]

/-- Decoding the four bytes of a word, in either byte order, is decoding the word (30_encoding.md R40). -/
theorem decode_bytesOfWord_append (ord : ByteOrder) (w : Word) (rest : List Byte) :
    decode ord (bytesOfWord ord w ++ rest) = (decodeWord w).map (·, rest) := by
  simp only [bytesOfWord, List.cons_append, List.nil_append, decode, wordOfBytes_wordByte]
  cases decodeWord w <;> rfl

/-! ### The rows of the opcode table (30_encoding.md R46) -/

/-- The row of spec/opcode_table.json that an instruction's fields select. -/
def Fields.tableRow (f : Fields) : TableRow := ⟨f.op, formOf f.op2, f.tableMask, f.tableMatch⟩

theorem Fields.tableRow_mem (f : Fields) : f.tableRow ∈ opcodeTable := by
  obtain ⟨op, c, s, rn, rd, o⟩ := f
  cases o <;> cases op <;>
    (simp only [Fields.tableRow, Fields.tableMask, Fields.tableMatch, formOf, Opcode.isTest, Bool.false_eq_true, if_true,
      if_false]; decide)

/-- A row's mask covers a field and its match value has `v` there. -/
abbrev Spec.TableRow.Fixes (r : TableRow) (start len : Nat) (v : BitVec len) : Prop :=
  r.mask.extractLsb' start len = BitVec.allOnes len ∧ r.value.extractLsb' start len = v

theorem Spec.TableRow.Fixes.read {r : TableRow} {start len : Nat} {v : BitVec len} (h : r.Fixes start len v) {w : Word}
    (hit : w &&& r.mask = r.value) : w.extractLsb' start len = v := by
  obtain ⟨mask, value⟩ := h
  rw [← value, ← hit, BitVec.extractLsb'_and, mask, BitVec.and_allOnes]

/-- What the rows fix: the class, the opcode, S for a test, and the bits that select the form. -/
theorem opcodeTable_fixes : ∀ r ∈ opcodeTable,
    r.Fixes 26 2 0b00#2 ∧ r.Fixes 21 4 r.op.bits ∧ (r.op.isTest = true → r.Fixes 20 1 0b1#1) ∧
    (r.form = .imm → r.Fixes 25 1 0b1#1) ∧
    (r.form = .regImm → r.Fixes 25 1 0b0#1 ∧ r.Fixes 4 1 0b0#1) ∧
    (r.form = .regReg → r.Fixes 25 1 0b0#1 ∧ r.Fixes 4 1 0b1#1 ∧ r.Fixes 7 1 0b0#1) := by decide

/-- A word that matches a row has the row's form, and passes step 3 of 30_encoding.md R53. -/
theorem form_of_matches {r : TableRow} (mem : r ∈ opcodeTable) {w : Word} (hit : w &&& r.mask = r.value) :
    formOf (decodeOperand2 w) = r.form ∧ (w.getLsbD 25 = false → w.getLsbD 4 = true → w.getLsbD 7 = false) := by
  obtain ⟨-, -, -, imm, regImm, regReg⟩ := opcodeTable_fixes r mem
  rw [formOf_decodeOperand2]
  cases form : r.form with
  | imm =>
    have immBit := (extractLsb'_one_eq_one w 25).mp ((imm form).read hit)
    simp only [immBit, if_true, Bool.true_eq_false, false_implies, and_self]
  | regImm =>
    obtain ⟨fix25, fix4⟩ := regImm form
    have immBit := (extractLsb'_one_eq_zero w 25).mp (fix25.read hit)
    have bit4 := (extractLsb'_one_eq_zero w 4).mp (fix4.read hit)
    simp only [immBit, bit4, if_false, Bool.false_eq_true, false_implies, implies_true, and_self]
  | regReg =>
    obtain ⟨fix25, fix4, fix7⟩ := regReg form
    have immBit := (extractLsb'_one_eq_zero w 25).mp (fix25.read hit)
    have bit4 := (extractLsb'_one_eq_one w 4).mp (fix4.read hit)
    have bit7 := (extractLsb'_one_eq_zero w 7).mp (fix7.read hit)
    simp only [immBit, bit4, bit7, if_true, if_false, Bool.false_eq_true, implies_true, and_self]

theorem op_of_matches {r : TableRow} (mem : r ∈ opcodeTable) {w : Word} (hit : w &&& r.mask = r.value) (c : Cond) :
    (decodedFields w c).op = r.op := by
  obtain ⟨-, op, -⟩ := opcodeTable_fixes r mem
  simp only [decodedFields, op.read hit, Opcode.ofBits_bits]

/-- A word that matches a row passes steps 2 to 4 of 30_encoding.md R53. -/
theorem isDataProcessing_of_matches {r : TableRow} (mem : r ∈ opcodeTable) {w : Word} (hit : w &&& r.mask = r.value) :
    IsDataProcessing w := by
  obtain ⟨inClass, -, sBit, -⟩ := opcodeTable_fixes r mem
  refine ⟨inClass.read hit, (form_of_matches mem hit).2, fun test => ?_⟩
  rw [← decodedFields_isTest w .al, op_of_matches mem hit] at test
  exact (extractLsb'_one_eq_one w 20).mp ((sBit test).read hit)

/-- An accepted word matches its instruction's row. -/
theorem matches_of_decodeWord {w : Word} {i : Instr} (h : decodeWord w = .ok i) :
    w &&& i.fields.tableRow.mask = i.fields.tableRow.value := by
  rw [← encode_of_decodeWord h]
  exact i.fields.word_and_tableMask i.test_sBit

/-- The only code that is no condition is 1111 (30_encoding.md R51). -/
theorem Cond.ofBits_eq_none_iff : ∀ b : BitVec 4, Cond.ofBits b = none ↔ b = 0b1111#4 := by decide

theorem Cond.exists_ofBits {b : BitVec 4} (h : b ≠ 0b1111#4) : ∃ c, Cond.ofBits b = some c :=
  Option.ne_none_iff_exists'.mp fun reserved => h ((Cond.ofBits_eq_none_iff b).mp reserved)

end Sys2Proof

namespace Sys2Proof.Machine

/-- A word outside the scope is refused in ARM state by the name of the decoder's reason (30_encoding.md R53, D24). -/
theorem step_eq_refused {s : State} {w : Word} {why : DecodeReject} (arm : psrThumb s.cpsr = false)
    (fetch : fetchWord s = .ok w) (decode : decodeWord w = .error why) : step s = .refused (.outOfScopeWord why) := by
  simp [step, arm, fetch, decode]

/-! ### Rotated constants (30_encoding.md R54, R55 g) -/

/-- A search through rising numbers stops at the first that has an answer. -/
theorem findSome?_range_eq_some {α : Type} {f : Nat → Option α} {n : Nat} {b : α}
    (found : (List.range n).findSome? f = some b) : ∃ a < n, f a = some b ∧ ∀ x < a, f x = none := by
  obtain ⟨before, a, after, parts, fa, noneBefore⟩ := List.findSome?_eq_some_iff.mp found
  have mem (x : Nat) : x < n ↔ x ∈ before ∨ x = a ∨ x ∈ after := by
    rw [← List.mem_range, parts, List.mem_append, List.mem_cons]
  have rising : (before ++ a :: after).Pairwise (· < ·) := parts ▸ List.pairwise_lt_range
  obtain ⟨-, risingFromA, -⟩ := List.pairwise_append.mp rising
  obtain ⟨afterRises, -⟩ := List.pairwise_cons.mp risingFromA
  have ha : a < n := (mem a).mpr (.inr (.inl rfl))
  refine ⟨a, ha, fa, fun x hx => ?_⟩
  rcases (mem x).mp (hx.trans ha) with inBefore | rfl | inAfter
  · exact noneBefore x inBefore
  · exact absurd hx (Nat.lt_irrefl x)
  · exact absurd hx (Nat.lt_asymm (afterRises x inAfter))

theorem rotateLeft_rotateRight (v : Word) {n : Nat} (hn : n < 32) : (v.rotateLeft n).rotateRight n = v := by
  refine BitVec.eq_of_getLsbD_eq fun i hi => ?_
  rw [BitVec.getLsbD_rotateRight_of_lt hn, BitVec.getLsbD_rotateLeft_of_le hn, BitVec.getLsbD_rotateLeft_of_le hn]
  rcases Nat.lt_or_ge i (32 - n) with low | high
  · simp [low, show ¬ n + i < n by omega, show n + i < 32 by omega]
  · simp [show ¬ i < 32 - n by omega, show i - (32 - n) < n by omega, hi, show 32 - n + (i - (32 - n)) = i by omega]

theorem rotateRight_rotateLeft (v : Word) {n : Nat} (hn : n < 32) : (v.rotateRight n).rotateLeft n = v := by
  refine BitVec.eq_of_getLsbD_eq fun i hi => ?_
  rw [BitVec.getLsbD_rotateLeft_of_le hn, BitVec.getLsbD_rotateRight_of_lt hn, BitVec.getLsbD_rotateRight_of_lt hn]
  rcases Nat.lt_or_ge i n with low | high
  · simp [low, show ¬ 32 - n + i < 32 - n by omega, show 32 - n + i < 32 by omega]
  · simp [show ¬ i < n by omega, show i - n < 32 - n by omega, hi, show n + (i - n) = i by omega]

/-- A byte in a word is a word below 256. -/
theorem setWidth_byte_eq_iff (b : Byte) (x : Word) : b.setWidth 32 = x ↔ x.toNat < 256 ∧ x.setWidth 8 = b := by
  constructor
  · rintro rfl
    exact ⟨by simp; omega, by simp⟩
  · rintro ⟨small, rfl⟩
    exact BitVec.eq_of_toNat_eq (by simp; omega)

/-- The shifter gives a value for a constant exactly when the value, rotated back, is the constant's byte
(41_operand2_shifter.md R81). -/
theorem immShift_value_iff (o : ImmOperand) (c : Bool) (value : Word) :
    (immShift o c).value = value ↔ o.imm8.setWidth 32 = value.rotateLeft (2 * o.rotate.toNat) := by
  have fits : 2 * o.rotate.toNat < 32 := by omega
  constructor
  · rintro rfl
    exact (rotateRight_rotateLeft _ fits).symm
  · intro back
    rw [immShift, back, rotateLeft_rotateRight _ fits]

/-- The constant tried at a rotate count is the one of that count that the shifter turns into the value. -/
theorem constantAt_eq_some_iff {value : Word} {r : Nat} (hr : r < 16) {o : ImmOperand} :
    constantAt value r = some o ↔ o.rotate.toNat = r ∧ (immShift o false).value = value := by
  obtain ⟨rotate, imm8⟩ := o
  have count : BitVec.ofNat 4 r = rotate ↔ rotate.toNat = r := by
    rw [← BitVec.toNat_inj, BitVec.toNat_ofNat, Nat.mod_eq_of_lt hr, eq_comm]
  rw [immShift_value_iff, setWidth_byte_eq_iff]
  simp only [constantAt, Option.ite_none_right_eq_some, Option.some.injEq, ImmOperand.mk.injEq, count]
  constructor
  · rintro ⟨small, rfl, byte⟩
    exact ⟨rfl, small, byte⟩
  · rintro ⟨rfl, small, byte⟩
    exact ⟨small, rfl, byte⟩

/-- Every constant that gives a value is the one tried at its rotate count. -/
theorem constantAt_of_immShift {value : Word} {o : ImmOperand} (same : (immShift o false).value = value) :
    constantAt value o.rotate.toNat = some o :=
  (constantAt_eq_some_iff o.rotate.isLt).mpr ⟨rfl, same⟩

/-! ### Assembled lines (30_encoding.md R54, R55) -/

/-- A written amount from 1 to 31 is the amount in the instruction. -/
theorem assembleOp2_byConstant (name : ShiftName) {n : Nat} (lo : 1 ≤ n) (hi : n ≤ 31) (rm : Reg) :
    assembleOp2 (.shifted rm (.byConstant name n)) = .ok (.regImm ⟨BitVec.ofNat 5 n, shiftNameType name, rm⟩) := by
  simp only [assembleOp2, assembleConstantShift, show ¬ n = 0 by omega, show n < 32 by omega, if_false, if_true]
  rfl

/-- A line whose operand 2 assembles gives the instruction of its fields. -/
theorem assembled_of_op2 {x : Op2Text} {o : Operand2} {line : Operand2 → Instr} (h : assembleOp2 x = .ok o) :
    (assembleOp2 x).map line = .ok (line o) := by
  rw [h]; rfl

/-- A line that assembles, to an opcode that is a test only with S = 1, gives an instruction with the line's fields. -/
theorem fields_of_assembled {x : Op2Text} {line : Operand2 → Fields} {i : Instr}
    (testSetsS : ∀ o, (line o).op.isTest = true → (line o).s = true)
    (h : ((assembleOp2 x).map fun o => (line o).instr) = .ok i) :
    ∃ o, assembleOp2 x = .ok o ∧ i.fields = line o := by
  cases op2 : assembleOp2 x with
  | error e => rw [op2] at h; cases h
  | ok o =>
    rw [assembled_of_op2 op2, Except.ok.injEq] at h
    exact ⟨o, rfl, h ▸ Fields.fields_instr _ (testSetsS o)⟩

end Sys2Proof.Machine

namespace Sys2Proof.Proofs

/-- Settles O1: the four bytes spell the word, and the word decodes to the instruction it was made of. -/
theorem decodeEncodeAgree : Obligations.DecodeEncodeAgree := by
  unfold Obligations.DecodeEncodeAgree
  intro i ord rest _
  rw [decode_bytesOfWord_append, decodeWord_encode]
  rfl

/-- Settles O2: the decoder keeps every bit of the fields it reads, and the others are fixed. -/
theorem encodeDecodeAgree : Obligations.EncodeDecodeAgree := by
  unfold Obligations.EncodeDecodeAgree
  intro w i h
  exact encode_of_decodeWord h

/-- Settles O3: an accepted word matches the row of its own instruction, and a row fixes the bits that the decoder's
checks, the opcode and the form look at. -/
theorem acceptedWordsAreTheTableRows : Obligations.AcceptedWordsAreTheTableRows := by
  unfold Obligations.AcceptedWordsAreTheTableRows
  intro w
  refine ⟨⟨?_, ?_⟩, ?_⟩
  · rintro ⟨i, h⟩
    obtain ⟨-, c, cond, -⟩ := decodeWord_ok.mp h
    refine ⟨fun reserved => ?_, _, i.fields.tableRow_mem, matches_of_decodeWord h⟩
    rw [(Cond.ofBits_eq_none_iff _).mpr reserved] at cond
    cases cond
  · rintro ⟨notReserved, r, mem, hit⟩
    obtain ⟨c, cond⟩ := Cond.exists_ofBits notReserved
    exact ⟨_, decodeWord_ok.mpr ⟨isDataProcessing_of_matches mem hit, c, cond, rfl⟩⟩
  · intro i h r mem hit
    obtain ⟨-, c, -, fields⟩ := fields_of_decodeWord h
    rw [fields]
    exact ⟨op_of_matches mem hit c, (form_of_matches mem hit).1⟩

/-- Settles O8: step 1 of 30_encoding.md R53 by the condition code, steps 2 to 5 by the decoder's own branches. -/
theorem stepRefusesWordsOutsideTheScope : Obligations.StepRefusesWordsOutsideTheScope := by
  unfold Obligations.StepRefusesWordsOutsideTheScope
  refine ⟨fun s thumb => by simp [step, thumb], fun s w arm fetch => ?_⟩
  have refuses {why : DecodeReject} := step_eq_refused (why := why) arm fetch
  split
  · next reserved => exact refuses (decodeWord_of_cond_none ((Cond.ofBits_eq_none_iff _).mpr reserved))
  · next notReserved =>
    obtain ⟨c, cond⟩ := Cond.exists_ofBits notReserved
    have branches := decodeWord_of_cond_some cond
    simp only [extractLsb'_one_eq_zero, extractLsb'_one_eq_one]
    split
    · next outside => exact refuses (branches.trans (if_pos outside))
    · next inClass =>
      rw [if_neg inClass] at branches
      split
      · next multiply => exact refuses (branches.trans (if_pos multiply))
      · next notMultiply =>
        rw [if_neg notMultiply] at branches
        split
        · next testWithSZero => exact refuses (branches.trans (if_pos testWithSZero))
        · next testSetsS =>
          have accepts := branches.trans (if_neg testSetsS)
          exact ⟨_, accepts, step_eq_exec arm fetch accepts⟩

/-- Settles O4: each word is the encoder's own for its instruction. -/
theorem exampleWordsDecode : Obligations.ExampleWordsDecode := by
  unfold Obligations.ExampleWordsDecode
  have reads {w : Word} {i : Instr} (h : encode i = w) : decodeWord w = .ok i := h ▸ decodeWord_encode i
  refine ⟨reads (by decide), reads (by decide), reads (by decide), reads (by decide), reads (by decide),
    fun p mem => reads ?conditions, fun p mem => reads ?destinations, reads (by decide), reads (by decide),
    reads (by decide), reads (by decide)⟩
  case conditions => revert p; decide
  case destinations => revert p; decide

/-- Settles O9, row by row of 30_encoding.md R47. -/
theorem conditionTable : Obligations.ConditionTable := by
  unfold Obligations.ConditionTable
  rintro ⟨n, z, c, v⟩
  have clear (b : Bool) : (!b) = true ↔ b = false := by simp
  refine ⟨Iff.rfl, clear z, Iff.rfl, clear c, Iff.rfl, clear n, Iff.rfl, clear v, ?hi, ?ls, ?ge, ?lt, ?gt, ?le, rfl⟩
  case hi => simp [condHolds]
  case ls => simp [condHolds]
  case ge => simp [condHolds]
  case lt => simp [condHolds]
  case gt => simp [condHolds]
  case le => simp [condHolds]

/-- Settles O57: a rotate count gives a constant exactly when the shifter undoes it, and the search tries the counts in
rising order. -/
theorem assembledConstantIsTheExpression : Obligations.AssembledConstantIsTheExpression := by
  unfold Obligations.AssembledConstantIsTheExpression
  intro value
  refine ⟨fun o found => ?_, fun notFound o same => ?_⟩
  · obtain ⟨r, hr, atR, least⟩ := findSome?_range_eq_some found
    obtain ⟨rotate, same⟩ := (constantAt_eq_some_iff hr).mp atR
    refine ⟨same, fun o' same' => ?_⟩
    by_contra smaller
    have missing := least o'.rotate.toNat (by omega)
    rw [constantAt_of_immShift same'] at missing
    cases missing
  · have missing := List.findSome?_eq_none_iff.mp notFound o.rotate.toNat (List.mem_range.mpr o.rotate.isLt)
    rw [constantAt_of_immShift same] at missing
    cases missing

/-- Settles O58: operand 2 by the assembler's own cases, a line by the fields it assembles to. -/
theorem assemblerConversions : Obligations.AssemblerConversions := by
  unfold Obligations.AssemblerConversions
  refine ⟨fun rm rs n => ⟨rfl, rfl⟩, fun rm rs => ⟨rfl, rfl, rfl, rfl⟩, fun rm n lo hi => ?amounts,
    fun rm => ⟨rfl, rfl, rfl, rfl, rfl, rfl, rfl, rfl⟩, fun value => ?expressions, fun op c s p rn x => ?tests,
    fun op c s rd rn x => ?binaries, fun op c s rd x => ?moves⟩
  case amounts =>
    have own (name : ShiftName) := assembleOp2_byConstant name lo hi rm
    exact ⟨own .lsl, own .lsr, own .asr, own .ror⟩
  case expressions =>
    exact ⟨fun o found => by simp only [assembleOp2, found], fun notFound => by simp only [assembleOp2, notFound]⟩
  case tests =>
    refine ⟨fun i h => ?_, fun o h => ⟨_, assembled_of_op2 h⟩⟩
    obtain ⟨o, op2, fields⟩ := fields_of_assembled (fun _ _ => rfl) h
    refine ⟨by rw [Instr.sBit, fields], by rw [Instr.cond, fields], by rw [fields], ?_, ?_, by rw [fields, op2]⟩
    · cases p <;> simp [fields]
    · rw [fields]; cases op <;> rfl
  case binaries =>
    refine ⟨fun i h => ?_, fun o h => ⟨_, assembled_of_op2 h⟩⟩
    obtain ⟨o, op2, fields⟩ := fields_of_assembled (fun _ => by cases op <;> exact nofun) h
    refine ⟨by rw [Instr.sBit, fields], by rw [Instr.cond, fields], by rw [fields], by rw [fields], ?_, by rw [fields, op2]⟩
    rw [fields]; cases op <;> rfl
  case moves =>
    refine ⟨fun i h => ?_, fun o h => ⟨_, assembled_of_op2 h⟩⟩
    obtain ⟨o, op2, fields⟩ := fields_of_assembled (fun _ => by cases op <;> exact nofun) h
    refine ⟨by rw [Instr.sBit, fields], by rw [Instr.cond, fields], by rw [fields], ?_, by rw [fields, op2]⟩
    rw [fields]; cases op <;> rfl

end Sys2Proof.Proofs
end

section
/-! The statements about what all data-processing instructions share (40_data_processing_common.md): what a failed
condition leaves, which flags each class writes, R15 as an operand, the P forms, and the frame of an instruction. -/

open Sys2Proof Sys2Proof.Machine Sys2Proof.Spec

namespace Sys2Proof.Machine

/-! ### The checks before an instruction (60_exceptions.md R143) -/

/-- With no shift amount in R15 and a legal mode, the condition decides (40_data_processing_common.md R60). -/
theorem issue_eq_ite {o : Operand2} {s : State} {m : Mode} (rsNotPc : shiftAmountInPc o = false) (mode : s.mode = some m)
    (c : Cond) (run : Mode → Answer) :
    issue c o s run = if condHolds c s.flags then run m else .next s.advance := by
  simp only [issue, rsNotPc, mode, Bool.false_eq_true, if_false]

theorem wellFormed_eq_true_iff (i : Instr) : i.wellFormed = true ↔ shiftAmountInPc i.fields.op2 = false := by
  simp [wellFormed_eq]

/-- A well-formed instruction whose condition fails (R60, R71). -/
theorem exec_of_failed_condition {i : Instr} {s : State} {m : Mode} (wf : i.wellFormed = true) (mode : s.mode = some m)
    (fails : condHolds i.cond s.flags = false) : exec i s = .next s.advance := by
  rw [exec_eq_issue, issue_eq_ite ((wellFormed_eq_true_iff i).mp wf) mode, show i.fields.cond = i.cond from rfl, fails]
  rfl

/-- A well-formed instruction whose condition holds: steps 2 to 6 of R62. -/
theorem exec_of_runs {i : Instr} {s : State} {m : Mode} (wf : i.wellFormed = true) (runs : Runs s m i.cond) :
    exec i s = finishFields i.fields m s := by
  obtain ⟨mode, holds⟩ := runs
  rw [exec_eq_issue, issue_eq_ite ((wellFormed_eq_true_iff i).mp wf) mode, show i.fields.cond = i.cond from rfl, holds]
  rfl

/-- `exec_next` in a mode that is known. -/
theorem exec_next_in_mode {i : Instr} {s t : State} {m : Mode} (mode : s.mode = some m) (next : exec i s = .next t) :
    (condHolds i.cond s.flags = false ∧ t = s.advance) ∨
      (condHolds i.cond s.flags = true ∧ Executes i.fields m s t) := by
  obtain ⟨-, m', mode', outcome⟩ := exec_next next
  obtain rfl : m = m' := Option.some.inj (mode.symm.trans mode')
  exact outcome

/-! ### The flags S = 1 writes (R65, R66) -/

/-- With S = 1 and Rd a general register, the flags of the next state are the operation's, whether the result is
written or, by a test, discarded. -/
theorem finishFields_writes_flags {f : Fields} {g : Gpr} (sSet : f.s = true) (dest : f.rd = .gpr g) (m : Mode) (s : State) :
    ∃ t, finishFields f m s = .next t ∧ t.flags = (fieldsOut f m s).flags := by
  cases test : f.op.isTest with
  | true => exact ⟨(s.writeFlags (fieldsOut f m s).flags).advance, by simp [finishFields, finishTest, test, dest], by simp⟩
  | false =>
    exact ⟨((s.writeReg m g (fieldsOut f m s).result).writeFlags (fieldsOut f m s).flags).advance,
      by simp [finishFields, writeResult, test, dest, sSet], by simp⟩

/-- An opcode of the logical class computes its row's result, with the flags of R65. -/
theorem opcodeAlu_of_logicalResult {op : Opcode} {a r : Word} {sh : ShifterOut}
    (result : logicalResult op a sh.value = some r) (old : Flags) : opcodeAlu op a sh old = logicalOut r sh.carry old := by
  cases op <;> cases result <;> rfl

/-- An opcode of the arithmetic class is the adder on its row's two words and carry in (43_arithmetic.md R121 to R128). -/
theorem opcodeAlu_of_adderInputs {op : Opcode} {a x y : Word} {sh : ShifterOut} {old : Flags} {cin : Bool}
    (inputs : adderInputs op a sh.value old.c = some (x, y, cin)) : opcodeAlu op a sh old = addWithCarry x y cin := by
  cases op <;> cases inputs <;> rfl

/-- Z is set exactly for a zero result, in both classes. -/
theorem withNZ_flags_z (r : Word) (c v : Bool) : (withNZ r c v).flags.z = true ↔ r = 0#32 := by
  simp [withNZ]

/-- Bit 31 of a word says that the word is at least 2^31. -/
theorem getLsbD_31_eq (x : Word) : x.getLsbD 31 = decide (2 ^ 31 ≤ x.toNat) :=
  (BitVec.msb_eq_getLsbD_last x).symm.trans (BitVec.msb_eq_decide x)

/-- The overflow of 43_arithmetic.md R120, the exact sum against the 32-bit one, is its bit formula: two words of the
same sign with a sum of the other. -/
theorem addWithCarry_v_iff (x y : Word) (cin : Bool) :
    (addWithCarry x y cin).flags.v = true ↔
      x.getLsbD 31 = y.getLsbD 31 ∧ (addWithCarry x y cin).result.getLsbD 31 ≠ x.getLsbD 31 := by
  have overflow : (addWithCarry x y cin).flags.v = true ↔
      x.toInt + y.toInt + cin.toNat ≠ (addWithCarry x y cin).result.toInt := decide_eq_true_iff
  have sum : (addWithCarry x y cin).result.toNat = (x.toNat + y.toNat + cin.toNat) % 2 ^ 32 := rfl
  have carryIn : cin.toNat ≤ 1 := Bool.toNat_le cin
  simp only [overflow, getLsbD_31_eq, BitVec.toInt_eq_toNat_cond, ne_eq, decide_eq_decide]
  omega

/-- The four flags of the adder (40_data_processing_common.md R66). -/
theorem addWithCarry_flags_iff (x y : Word) (cin : Bool) :
    (addWithCarry x y cin).flags.n = (addWithCarry x y cin).result.getLsbD 31 ∧
    ((addWithCarry x y cin).flags.z = true ↔ (addWithCarry x y cin).result = 0#32) ∧
    ((addWithCarry x y cin).flags.c = true ↔ 2 ^ 32 ≤ x.toNat + y.toNat + cin.toNat) ∧
    ((addWithCarry x y cin).flags.v = true ↔
      x.getLsbD 31 = y.getLsbD 31 ∧ (addWithCarry x y cin).result.getLsbD 31 ≠ x.getLsbD 31) :=
  ⟨rfl, withNZ_flags_z _ _ _, decide_eq_true_iff, addWithCarry_v_iff x y cin⟩

/-! ### The frame of an instruction (R60 to R71) -/

/-- An instruction writes no register copy but its destination's, and a test or one with Rd = R15 none (R64, R68 to
R70). -/
theorem Executes.regs_get {f : Fields} {m : Mode} {s t : State} (e : Executes f m s t) {p : PhysReg}
    (other : f.op.isTest = false → ∀ g, f.rd = .gpr g → p ≠ bank m g) : t.regs.get p = s.regs.get p := by
  cases e with
  | writesRegister g write dest => cases f.s <;> exact RegFile.get_set_ne _ _ (other write g dest)
  | jumps _ _ _ _ => rfl
  | returns saved _ _ _ _ _ _ _ _ => rfl
  | testsFlags g _ _ => rfl
  | teqpInUserMode _ _ _ => rfl
  | pForm saved _ _ _ _ _ _ => rfl

/-- An instruction that writes a result with S = 0 leaves CPSR as it was, whatever its Rd (R67). -/
theorem Executes.cpsr_of_s_clear {f : Fields} {m : Mode} {s t : State} (e : Executes f m s t)
    (write : f.op.isTest = false) (sClear : f.s = false) : t.cpsr = s.cpsr := by
  cases e with
  | writesRegister g _ _ => simp [sClear]
  | jumps _ _ _ _ => rfl
  | returns saved _ _ sSet _ _ _ _ _ => exact absurd (sSet.symm.trans sClear) (by decide)
  | testsFlags g test _ => exact absurd (test.symm.trans write) (by decide)
  | teqpInUserMode _ _ _ => rfl
  | pForm saved test _ _ _ _ _ => exact absurd (test.symm.trans write) (by decide)

/-- With a general register for Rd an instruction writes no CPSR bit but the flags (R65, R66, 10_state.md R17). -/
theorem Executes.cpsr_low_of_rd_ne_pc {f : Fields} {m : Mode} {s t : State} (e : Executes f m s t) (notPc : f.rd ≠ .pc) :
    t.cpsr.extractLsb' 0 28 = s.cpsr.extractLsb' 0 28 := by
  cases e with
  | writesRegister g _ _ => cases f.s <;> simp
  | jumps _ dest _ _ => exact absurd dest notPc
  | returns saved _ dest _ _ _ _ _ _ => exact absurd dest notPc
  | testsFlags g _ _ => simp
  | teqpInUserMode _ dest _ => exact absurd dest notPc
  | pForm saved _ dest _ _ _ _ => exact absurd dest notPc

/-- No test has S = 0 (30_encoding.md R50, D13). -/
theorem isTest_eq_false_of_sBit {i : Instr} (sClear : i.sBit = false) : i.fields.op.isTest = false := by
  by_contra test
  exact absurd ((i.test_sBit (by simpa using test)).symm.trans sClear) (by decide)

/-- No instruction with S = 0 writes CPSR, its condition holding or not (R60, R67). -/
theorem exec_cpsr_of_s_clear {i : Instr} {s t : State} (sClear : i.sBit = false) (next : exec i s = .next t) :
    t.cpsr = s.cpsr := by
  obtain ⟨-, m, -, ⟨-, rfl⟩ | ⟨-, run⟩⟩ := exec_next next
  · rfl
  · exact run.cpsr_of_s_clear (isTest_eq_false_of_sBit sClear) sClear

/-! ### Operand 2 in its three forms, and the P forms (R70, R74) -/

/-- What holds of a row for every operand 2 whose shift amount is not in R15 holds in each form. -/
theorem eachForm_of_operand2 {α : Type} {row : Operand2 → α} {P : Operand2 → α → Prop}
    (h : ∀ o, shiftAmountInPc o = false → P o (row o)) :
    EachForm (fun o => row (.imm o)) (fun o => row (.regImm o)) (fun o => row (.regReg o)) P :=
  ⟨fun _ => h _ rfl, fun _ => h _ rfl, fun _ rsNotPc => h _ (by simpa [shiftAmountInPc] using rsNotPc)⟩

/-- An instruction given by its fields, when its condition holds. -/
theorem exec_instr_of_runs {f : Fields} {s : State} {m : Mode} (testSetsS : f.op.isTest = true → f.s = true)
    (rsNotPc : shiftAmountInPc f.op2 = false) (runs : Runs s m f.cond) : exec f.instr s = finishFields f m s := by
  have fields := f.fields_instr testSetsS
  have wf : f.instr.wellFormed = true := (wellFormed_eq_true_iff _).mpr (by rwa [fields])
  have run := exec_of_runs wf (show Runs s m f.instr.cond by rwa [Instr.cond, fields])
  rwa [fields] at run

/-- A copy of the mode's SPSR to CPSR and what follows it: the stops of R69 and R74, or `next` from the state with the
saved image. -/
theorem copiesSpsr_andThen (s : State) (m : Mode) (next : State → Answer) :
    CopiesSpsr (andThen (copySpsr m s) next) s m fun saved => next { s with cpsr := saved } := by
  refine ⟨fun sys => by subst sys; rfl, fun saved has => ⟨fun noMode => ?_, fun mode thumb => ?_, fun mode arm => ?_⟩⟩
  · simp [copySpsr, has, noMode, andThen]
  · obtain ⟨m', mode⟩ := Option.ne_none_iff_exists'.mp mode
    simp [copySpsr, has, mode, thumb, andThen]
  · obtain ⟨m', mode⟩ := Option.ne_none_iff_exists'.mp mode
    simp [copySpsr, has, mode, arm, andThen]

/-- The P form of a test in a mode with an SPSR, or in System mode (R70). -/
theorem finishTest_pc_of_ne_usr {m : Mode} (priv : m ≠ .usr) (isTeq : Bool) (out : AluOut) (s : State) :
    finishTest m isTeq .pc out s = andThen (copySpsr m s) fun s' => .next s'.advance := by
  simp [finishTest, priv]

/-- What a test `op` with Rd = 1111 answers: in User mode TEQ advances the pc and the other three fault; elsewhere the
mode's SPSR is copied to CPSR (R70, R74). -/
def PFormAnswers (op : Opcode) (s : State) (m : Mode) (i : Instr) : Prop :=
  (m = .usr → exec i s = if op == .teq then .next s.advance else .fault .testPFormInUserMode) ∧
  (m ≠ .usr → CopiesSpsr (exec i s) s m fun saved => .next { s with cpsr := saved, pc := s.pc + 4#32 })

/-- A test with Rd = 1111 whose condition holds (R70). -/
theorem pFormAnswers_of_runs {s : State} {m : Mode} {c : Cond} (runs : Runs s m c) {op : Opcode} (test : op.isTest = true)
    (rn : Reg) {o : Operand2} (rsNotPc : shiftAmountInPc o = false) :
    PFormAnswers op s m (Fields.instr ⟨op, c, true, rn, .pc, o⟩) := by
  have run := exec_instr_of_runs (f := ⟨op, c, true, rn, .pc, o⟩) (fun _ => rfl) rsNotPc runs
  simp only [finishFields, test, if_true] at run
  refine ⟨fun user => ?_, fun priv => ?_⟩
  · rw [run, user]; rfl
  · rw [run, finishTest_pc_of_ne_usr priv]
    exact copiesSpsr_andThen s m _

end Sys2Proof.Machine

namespace Sys2Proof.Proofs

/-- Settles O10: the checks before an instruction leave the advance of the pc alone. -/
theorem failedConditionOnlyAdvancesPc : Obligations.FailedConditionOnlyAdvancesPc := by
  unfold Obligations.FailedConditionOnlyAdvancesPc
  intro i s m wf mode fails
  exact exec_of_failed_condition wf mode fails

/-- Settles O42: the flags written are the operation's, and the operation is its row's result with the flags of R65. -/
theorem logicalFlagsFollowTheResult : Obligations.LogicalFlagsFollowTheResult := by
  unfold Obligations.LogicalFlagsFollowTheResult
  intro i s m g r runs wf sSet dest result
  obtain ⟨t, next, flags⟩ := finishFields_writes_flags sSet dest m s
  rw [fieldsOut, opcodeAlu_of_logicalResult result] at flags
  refine ⟨t, (exec_of_runs wf runs).trans next, ?_⟩
  rw [flags]
  exact ⟨rfl, withNZ_flags_z _ _ _, rfl, rfl⟩

/-- Settles O43: the flags written are the operation's, and the operation is the adder on its row's words. -/
theorem arithmeticFlagsFollowTheAdder : Obligations.ArithmeticFlagsFollowTheAdder := by
  unfold Obligations.ArithmeticFlagsFollowTheAdder
  intro i s m g x y cin runs wf sSet dest inputs r
  obtain ⟨t, next, flags⟩ := finishFields_writes_flags sSet dest m s
  rw [fieldsOut, opcodeAlu_of_adderInputs inputs] at flags
  have sum : (addWithCarry x y cin).result = r := addWithCarry_result x y cin
  refine ⟨t, (exec_of_runs wf runs).trans next, ?_⟩
  rw [flags, ← sum]
  exact addWithCarry_flags_iff x y cin

/-- Settles O44: with S = 0 an instruction is no test, and none of the others writes CPSR. -/
theorem noFlagIsWrittenWithSZero : Obligations.NoFlagIsWrittenWithSZero := by
  unfold Obligations.NoFlagIsWrittenWithSZero
  intro i sClear
  refine ⟨isTest_eq_false_of_sBit sClear, fun s t next => ?_⟩
  have kept := exec_cpsr_of_s_clear sClear next
  exact ⟨kept, congrArg psrFlags kept⟩

/-- Settles O51: a failed condition advances the pc alone; else each thing an instruction can do keeps its frame. -/
theorem frameOfEveryInstruction : Obligations.FrameOfEveryInstruction := by
  unfold Obligations.FrameOfEveryInstruction
  intro i s t m mode next
  obtain ⟨mem, spsr, params⟩ := exec_sameStore next
  refine ⟨fun p other => ?copies, fun fails => ?failed, fun keeps => ?status, fun a => by rw [mem], mem, spsr, params⟩
  case copies =>
    obtain ⟨-, rfl⟩ | ⟨-, run⟩ := exec_next_in_mode mode next
    · rfl
    · exact run.regs_get other
  case failed =>
    obtain ⟨-, rfl⟩ | ⟨holds, -⟩ := exec_next_in_mode mode next
    · exact ⟨rfl, rfl⟩
    · exact absurd (holds.symm.trans fails) (by decide)
  case status =>
    obtain sClear | notPc := keeps
    · rw [exec_cpsr_of_s_clear sClear next]
    · obtain ⟨-, rfl⟩ | ⟨-, run⟩ := exec_next_in_mode mode next
      · rfl
      · exact run.cpsr_low_of_rd_ne_pc notPc

/-- Settles O12, form by form: how far ahead R15 reads is the form's. -/
theorem pcReadsAhead : Obligations.PcReadsAhead := by
  unfold Obligations.PcReadsAhead
  intro s m i p r o g
  exact ⟨rfl, rfl, rfl, readOperandReg_gpr s m o g⟩

/-- Settles O41: the four tests differ in User mode only, where TEQP advances the pc and the others fault. -/
theorem pFormsCopySpsr : Obligations.PFormsCopySpsr := by
  unfold Obligations.PFormsCopySpsr
  intro s m c rn runs
  have forms (op : Opcode) (test : op.isTest = true) :=
    eachForm_of_operand2 (row := fun o => Fields.instr ⟨op, c, true, rn, .pc, o⟩) (P := fun _ => PFormAnswers op s m)
      fun _ rsNotPc => pFormAnswers_of_runs runs test rn rsNotPc
  exact ⟨forms .teq rfl, forms .tst rfl, forms .cmp rfl, forms .cmn rfl⟩

end Sys2Proof.Proofs
end

section
/-! The statements about operand 2 and the shifter (41_operand2_shifter.md): rotated bytes, shifts by an amount in the
instruction bit by bit, and shifts by an amount in a register reduced to them. -/

open Sys2Proof Sys2Proof.Machine Sys2Proof.Spec

namespace Sys2Proof.Machine

/-! ### Rotated bytes (R81, R82) -/

/-- ROR32 of the spec is the rotation of the model's shifter. -/
theorem ror32_eq_rotateRight (v : Word) {n : Nat} (hn : n < 32) : ror32 v n = v.rotateRight n := by
  rw [BitVec.rotateRight_eq_rotateRightAux_of_lt hn, BitVec.rotateRightAux, ror32]
  split
  case isTrue zero =>
    subst zero
    simp
  case isFalse => rfl

/-- The value of an immediate operand as the spec's ROR32, whatever the C flag. -/
theorem immShift_value (o : ImmOperand) (c : Bool) :
    (immShift o c).value = ror32 (o.imm8.setWidth 32) (2 * o.rotate.toNat) :=
  (ror32_eq_rotateRight _ (by omega)).symm

theorem immShift_carry_of_rotate_zero {o : ImmOperand} (h : o.rotate = 0#4) (c : Bool) : (immShift o c).carry = c :=
  if_pos h

theorem immShift_carry_of_rotate_ne_zero {o : ImmOperand} (h : o.rotate ≠ 0#4) (c : Bool) :
    (immShift o c).carry = (immShift o c).value.getLsbD 31 :=
  (if_neg h).trans (BitVec.msb_eq_getLsbD_last _)

/-- The immediate operand for 2^k: bit 0 of the byte for an even k and bit 1 for an odd one, rotated left by the even
number left over. -/
def powerOfTwoOperand (k : Nat) : ImmOperand := ⟨BitVec.ofNat 4 (16 - k / 2), BitVec.ofNat 8 (2 ^ (k % 2))⟩

theorem immShift_powerOfTwoOperand :
    ∀ k < 32, ∀ c, (immShift (powerOfTwoOperand k) c).value = 1#32 <<< k := by decide

/-! ### A shift by 1 to 31, bit by bit (R83, R85, R87, R89) -/

theorem getLsbD_shiftBy_lsl (v : Word) (n : Nat) {i : Nat} (hi : i < 32) :
    (shiftBy .lsl v n).value.getLsbD i = if i < n then false else v.getLsbD (i - n) := by
  simp only [shiftBy, BitVec.getLsbD_shiftLeft, hi]
  by_cases low : i < n <;> simp [low]

theorem getLsbD_shiftBy_lsr (v : Word) (n i : Nat) :
    (shiftBy .lsr v n).value.getLsbD i = if i + n < 32 then v.getLsbD (i + n) else false := by
  rw [shiftBy, BitVec.getLsbD_ushiftRight, Nat.add_comm n i]
  split
  case isTrue => rfl
  case isFalse past => exact BitVec.getLsbD_of_ge _ _ (Nat.le_of_not_lt past)

theorem getLsbD_shiftBy_asr (v : Word) (n : Nat) {i : Nat} (hi : i < 32) :
    (shiftBy .asr v n).value.getLsbD i = if i + n < 32 then v.getLsbD (i + n) else v.getLsbD 31 := by
  simp only [shiftBy, BitVec.getLsbD_sshiftRight, Nat.add_comm n i, BitVec.msb_eq_getLsbD_last, Nat.not_le.mpr hi,
    decide_false, Bool.not_false, Bool.true_and]

theorem getLsbD_shiftBy_ror (v : Word) {n i : Nat} (hn : n < 32) (hi : i < 32) :
    (shiftBy .ror v n).value.getLsbD i = v.getLsbD ((i + n) % 32) := by
  rw [shiftBy, BitVec.getLsbD_rotateRight_of_lt hn]
  rcases Nat.lt_or_ge i (32 - n) with low | high
  · simp [low, show (i + n) % 32 = n + i by omega]
  · simp [Nat.not_lt.mpr high, hi, show (i + n) % 32 = i - (32 - n) by omega]

/-! ### An amount in the instruction (R83 to R90) -/

/-- Bit 31 in every place, as the spec tells the two cases apart. -/
theorem signFill_eq_ite (v : Word) : signFill v = if v.getLsbD 31 then 0xFFFFFFFF#32 else 0x00000000#32 := by
  rw [signFill, BitVec.msb_eq_getLsbD_last]

theorem shiftByImm_of_ne_zero {amount : BitVec 5} (h : amount ≠ 0#5) (ty : ShiftType) (v : Word) (c : Bool) :
    shiftByImm ty v amount c = shiftBy ty v amount.toNat := if_neg h

theorem shiftByImm_lsl_zero (v : Word) (c : Bool) : shiftByImm .lsl v 0#5 c = ⟨v, c⟩ := rfl

theorem shiftByImm_lsr_zero (v : Word) (c : Bool) : shiftByImm .lsr v 0#5 c = ⟨0#32, v.getLsbD 31⟩ := by
  rw [← BitVec.msb_eq_getLsbD_last]; rfl

theorem shiftByImm_asr_zero (v : Word) (c : Bool) :
    shiftByImm .asr v 0#5 c = ⟨if v.getLsbD 31 then 0xFFFFFFFF#32 else 0x00000000#32, v.getLsbD 31⟩ := by
  rw [← signFill_eq_ite, ← BitVec.msb_eq_getLsbD_last]; rfl

/-- RRX: the C flag comes in above the other 31 bits of Rm. -/
theorem shiftByImm_ror_zero (v : Word) (c : Bool) :
    shiftByImm .ror v 0#5 c = ⟨BitVec.ofBool c ++ v.extractLsb' 1 31, v.getLsbD 0⟩ := rfl

/-- A constant amount from 1 to 31, written as a number. -/
theorem shiftByImm_ofNat {n : Nat} (lo : 1 ≤ n) (hi : n < 32) (ty : ShiftType) (v : Word) (c : Bool) :
    shiftByImm ty v (BitVec.ofNat 5 n) c = shiftBy ty v n := by
  have value : (BitVec.ofNat 5 n).toNat = n := Nat.mod_eq_of_lt hi
  have ne : BitVec.ofNat 5 n ≠ 0#5 := fun zero => by
    rw [zero] at value
    exact absurd value.symm (Nat.ne_of_gt lo)
  rw [shiftByImm_of_ne_zero ne, value]

/-! ### An amount in a register (R91 to R97) -/

theorem rsAmount_low (rs : Word) : rsAmount .low rs = rs.toNat % 256 := by
  simp [rsAmount, BitVec.extractLsb'_toNat]

theorem rsAmount_high (rs : Word) : rsAmount .high rs = rs.toNat / 2 ^ 24 := by
  simp only [rsAmount, BitVec.extractLsb'_toNat, Nat.shiftRight_eq_div_pow]
  omega

/-- The shifter of the register form, in the names of the statements. -/
theorem shifter_regReg_eq (s : State) (m : Mode) (o : ShiftRegOperand) :
    shifter s m (.regReg o) = shiftByReg o.ty (rmValue s m o) (amountOf s m o) s.flags.c := rfl

theorem shiftByReg_zero (ty : ShiftType) (v : Word) (c : Bool) : shiftByReg ty v 0 c = ⟨v, c⟩ := rfl

/-- A register amount from 1 to 31 is that constant amount (R93). -/
theorem shiftByReg_eq_shiftByImm {n : Nat} (lo : 1 ≤ n) (hi : n < 32) (ty : ShiftType) (v : Word) (c : Bool) :
    shiftByReg ty v n c = shiftByImm ty v (BitVec.ofNat 5 n) c := by
  rw [shiftByImm_ofNat lo hi, shiftByReg.eq_def, if_neg (Nat.ne_of_gt lo), if_pos hi]

section
variable {n : Nat} (big : 32 ≤ n) (v : Word) (c : Bool)
include big

theorem shiftByReg_lsl_of_ge : shiftByReg .lsl v n c = ⟨0#32, n == 32 && v.getLsbD 0⟩ := by
  rw [shiftByReg, if_neg (by omega), if_neg (by omega)]

theorem shiftByReg_lsr_of_ge : shiftByReg .lsr v n c = ⟨0#32, n == 32 && v.getLsbD 31⟩ := by
  rw [shiftByReg, if_neg (by omega), if_neg (by omega), BitVec.msb_eq_getLsbD_last]

theorem shiftByReg_asr_of_ge :
    shiftByReg .asr v n c = ⟨if v.getLsbD 31 then 0xFFFFFFFF#32 else 0x00000000#32, v.getLsbD 31⟩ := by
  rw [shiftByReg, if_neg (by omega), if_neg (by omega), signFill_eq_ite, BitVec.msb_eq_getLsbD_last]

theorem shiftByReg_ror_of_ge : shiftByReg .ror v n c = rotateUpTo32 v (reduceRotation n) := by
  rw [shiftByReg, if_neg (by omega), if_neg (by omega)]

end

/-- Taking 32 away as long as 1 or more is left (R97). -/
theorem reduceRotation_mul_add (j : Nat) {k : Nat} (lo : 1 ≤ k) (hi : k ≤ 32) : reduceRotation (32 * j + k) = k := by
  unfold reduceRotation; omega

/-- A rotation by 1 to 32 in the spec's words: 32 leaves Rm, and less is the constant rotation. -/
theorem rotateUpTo32_eq_ite {k : Nat} (lo : 1 ≤ k) (hi : k ≤ 32) (v : Word) (c : Bool) :
    rotateUpTo32 v k = if k = 32 then ⟨v, v.getLsbD 31⟩ else shiftByImm .ror v (BitVec.ofNat 5 k) c := by
  rw [rotateUpTo32, BitVec.msb_eq_getLsbD_last]
  split
  case isTrue => rfl
  case isFalse ne => exact (shiftByImm_ofNat lo (by omega) .ror v c).symm

/-- A rotation by a register amount of 32 or more, which comes down to its amount in 1 to 32 (R97). -/
theorem shiftByReg_ror_mul_add {j k : Nat} (lo : 1 ≤ k) (hi : k ≤ 32) (big : 32 ≤ 32 * j + k) (v : Word) (c : Bool) :
    shiftByReg .ror v (32 * j + k) c =
      if k = 32 then ⟨v, v.getLsbD 31⟩ else shiftByImm .ror v (BitVec.ofNat 5 k) c := by
  rw [shiftByReg_ror_of_ge big, reduceRotation_mul_add j lo hi, rotateUpTo32_eq_ite lo hi v c]

end Sys2Proof.Machine

namespace Sys2Proof.Proofs

/-- Settles O13: the spec's rotation is the model's, and 2^k is the operand `powerOfTwoOperand k`. -/
theorem immediateOperandRotates : Obligations.ImmediateOperandRotates := by
  unfold Obligations.ImmediateOperandRotates
  refine ⟨fun o s m => ⟨immShift_value o _, fun zero => immShift_carry_of_rotate_zero zero _, fun rotated => ?_⟩,
    fun k hk => ⟨powerOfTwoOperand k, fun s _ => immShift_powerOfTwoOperand k hk s.flags.c⟩⟩
  rw [shifter_imm, immShift_carry_of_rotate_ne_zero rotated, immShift_value]

/-- Settles O17, type by type, once the amount is known not to be the special 0. -/
theorem shiftByOneToThirtyOneMovesBits : Obligations.ShiftByOneToThirtyOneMovesBits := by
  unfold Obligations.ShiftByOneToThirtyOneMovesBits
  intro s m o notZero
  simp only [shifter_regImm, shiftByImm_of_ne_zero notZero]
  refine ⟨fun type => ?lsl, fun type => ?lsr, fun type => ?asr, fun type => ?ror⟩ <;> rw [type]
  case lsl => exact ⟨rfl, fun _ => getLsbD_shiftBy_lsl _ _⟩
  case lsr => exact ⟨rfl, fun _ _ => getLsbD_shiftBy_lsr _ _ _⟩
  case asr => exact ⟨rfl, fun _ => getLsbD_shiftBy_asr _ _⟩
  case ror => exact ⟨rfl, fun _ => getLsbD_shiftBy_ror _ o.amount.isLt⟩

/-- Settles O20: the two forms of an instruction read the same value of a general register, but not of R15. -/
theorem registerAmountUpTo31AgreesWithConstant : Obligations.RegisterAmountUpTo31AgreesWithConstant := by
  unfold Obligations.RegisterAmountUpTo31AgreesWithConstant
  intro s m o lo hi
  have same := shiftByReg_eq_shiftByImm lo (Nat.lt_succ_of_le hi) o.ty (rmValue s m o) s.flags.c
  refine ⟨same, fun notPc => same.trans ?_⟩
  obtain ⟨g, general⟩ : ∃ g, o.rm = .gpr g := by
    cases rm : o.rm with
    | gpr g => exact ⟨g, rfl⟩
    | pc => exact absurd rm notPc
  simp only [shifter_regImm, rmValue, general, readOperandReg_gpr]

/-- Settles O24: 32 is 32 * 0 + 32, so both clauses are the one reduction. -/
theorem rorByRegister32OrMore : Obligations.RorByRegister32OrMore := by
  unfold Obligations.RorByRegister32OrMore
  intro s m o type
  rw [shifter_regReg_eq, type]
  constructor
  · intro amount
    rw [amount]
    exact shiftByReg_ror_mul_add (j := 0) (by decide) (Nat.le_refl 32) (by decide) _ _
  · intro j k above lo hi amount
    rw [amount]
    exact shiftByReg_ror_mul_add lo hi (by omega) _ _

/-- Settles O14, whatever is read for Rm. -/
theorem lslByZeroPassesRmThrough : Obligations.LslByZeroPassesRmThrough := by
  unfold Obligations.LslByZeroPassesRmThrough
  exact fun s m rm => shiftByImm_lsl_zero _ s.flags.c

/-- Settles O15, whatever is read for Rm and whatever the C flag. -/
theorem asrByZeroFillsWithSign : Obligations.AsrByZeroFillsWithSign := by
  unfold Obligations.AsrByZeroFillsWithSign
  exact fun s m rm => shiftByImm_asr_zero _ s.flags.c

/-- Settles O16: in RRX, bit 31 is the part above the 31 bits taken from Rm. -/
theorem lsrAndRorByZeroMeanLsr32AndRrx : Obligations.LsrAndRorByZeroMeanLsr32AndRrx := by
  unfold Obligations.LsrAndRorByZeroMeanLsr32AndRrx
  intro s m rm
  simp only [shifter_regImm, shiftByImm_lsr_zero, shiftByImm_ror_zero, BitVec.getLsbD_append, true_and]
  refine ⟨by simp, fun i hi => ?_, trivial⟩
  simp [hi, Nat.add_comm]

/-- Settles O18: as numbers, the two bytes are the remainder by 2^8 and the quotient by 2^24. -/
theorem amountIsOneByteOfRs : Obligations.AmountIsOneByteOfRs := by
  unfold Obligations.AmountIsOneByteOfRs
  exact ⟨fun rs => ⟨rsAmount_low rs, rsAmount_high rs⟩, rsAmount_le, fun s m ty rs rm => shifter_regReg s m _, rfl⟩

/-- Settles O19, for all four types at once: the amount 0 is asked for before the type. -/
theorem registerAmountZeroPassesRmThrough : Obligations.RegisterAmountZeroPassesRmThrough := by
  unfold Obligations.RegisterAmountZeroPassesRmThrough
  intro s m o zero
  rw [shifter_regReg_eq, zero, shiftByReg_zero]

/-- Settles O21: the carry of the common equation is Rm's bit 0 at 32 only. -/
theorem lslByRegister32OrMore : Obligations.LslByRegister32OrMore := by
  unfold Obligations.LslByRegister32OrMore
  intro s m o type
  rw [shifter_regReg_eq, type]
  refine ⟨fun at32 => ?_, fun above => ?_⟩
  · rw [at32]
    exact shiftByReg_lsl_of_ge (Nat.le_refl 32) _ _
  · rw [shiftByReg_lsl_of_ge above.le, beq_false_of_ne above.ne', Bool.false_and]

/-- Settles O22: the carry of the common equation is Rm's bit 31 at 32 only. -/
theorem lsrByRegister32OrMore : Obligations.LsrByRegister32OrMore := by
  unfold Obligations.LsrByRegister32OrMore
  intro s m o type
  rw [shifter_regReg_eq, type]
  refine ⟨fun at32 => ?_, fun above => ?_⟩
  · rw [at32]
    exact shiftByReg_lsr_of_ge (Nat.le_refl 32) _ _
  · rw [shiftByReg_lsr_of_ge above.le, beq_false_of_ne above.ne', Bool.false_and]

/-- Settles O23: past 31 the amount no longer counts. -/
theorem asrByRegister32OrMore : Obligations.AsrByRegister32OrMore := by
  unfold Obligations.AsrByRegister32OrMore
  intro s m o type big
  rw [shifter_regReg_eq, type, shiftByReg_asr_of_ge big]

end Sys2Proof.Proofs
end

section
/-! The statements about the logical class (42_logical.md): what an instruction with a result answers for every Rd and
S, what a test answers, and each row's result. -/

open Sys2Proof Sys2Proof.Machine Sys2Proof.Spec

namespace Sys2Proof.Machine

/-! ### Where a result goes (40_data_processing_common.md R64 to R71) -/

/-- A jump in the words of R68: the low two bits of the target decide. -/
theorem jump_eq_ite (target : Word) (s : State) :
    jump target s =
      if target.extractLsb' 0 2 = 0#2 then .next { s with pc := target } else .fault .misalignedPcWrite := by
  simp only [jump, aligned_iff]

theorem returnFromException_of_ne_usr {m : Mode} (priv : m ≠ .usr) (target : Word) (s : State) :
    returnFromException m target s = andThen (copySpsr m s) (jump target) := if_neg priv

/-- A return from a mode that is not User: the copy of the SPSR with its stops, then the jump (R69, R74). -/
theorem copiesSpsr_returnFromException {m : Mode} (priv : m ≠ .usr) (target : Word) (s : State) :
    CopiesSpsr (returnFromException m target s) s m fun saved =>
      if target.extractLsb' 0 2 = 0#2 then .next { s with cpsr := saved, pc := target }
      else .fault .misalignedPcWrite := by
  have copies := copiesSpsr_andThen s m (jump target)
  simp only [jump_eq_ite] at copies
  rwa [returnFromException_of_ne_usr priv]

/-- A result in a general register, as the registers of the mode show it (R64). -/
theorem writeResult_gpr_readReg {m : Mode} {sBit : Bool} {g : Gpr} {out : AluOut} {s t : State}
    (next : writeResult m sBit (.gpr g) out s = .next t) :
    t.readReg m g = out.result ∧ ∀ h, h ≠ g → t.readReg m h = s.readReg m h := by
  have regs : t.regs = (s.writeReg m g out.result).regs := by
    obtain rfl := Host.Outcome.next.inj next
    cases sBit <;> rfl
  have copies (h : Gpr) : t.readReg m h = (s.writeReg m g out.result).readReg m h := by
    rw [State.readReg, regs, State.readReg]
  exact ⟨(copies g).trans (State.readReg_writeReg_same s m g out.result),
    fun h other => (copies h).trans (State.readReg_writeReg_ne s m out.result other)⟩

/-- A row that puts `out` where its Rd and S say answers all that `WritesResult` asks. -/
theorem writesResult_of_writeResult {row : Bool → Reg → Instr} {s : State} {m : Mode} {out : AluOut}
    (answers : ∀ sBit rd, exec (row sBit rd) s = writeResult m sBit rd out s) :
    WritesResult row s m out.result out.flags := by
  refine ⟨fun g => ?plain, fun g => ?flags, fun sBit g t next => ?readBack, fun al => ?jumps, fun misaligned => ?faults,
    fun user => ?user, fun priv => ?returns⟩
  case plain => exact answers false (.gpr g)
  case flags => exact answers true (.gpr g)
  case readBack => exact writeResult_gpr_readReg ((answers sBit (.gpr g)).symm.trans next)
  case jumps => exact (answers false .pc).trans ((jump_eq_ite out.result s).trans (if_pos al))
  case faults => exact (answers false .pc).trans ((jump_eq_ite out.result s).trans (if_neg misaligned))
  case user => exact (answers true .pc).trans (if_pos user)
  case returns =>
    rw [answers true .pc]
    exact copiesSpsr_returnFromException priv out.result s

/-! ### The twelve rows with a result and the four tests, their condition holding -/

section
variable {s : State} {m : Mode} {c : Cond} (runs : Runs s m c) {op : Opcode} (rn : Reg) {o : Operand2}
  (rsNotPc : shiftAmountInPc o = false)
include runs rsNotPc

/-- An opcode with a result writes what its operation computes from the two operands. -/
theorem writesResult_of_runs (write : op.isTest = false) :
    WritesResult (fun sBit rd => Fields.instr ⟨op, c, sBit, rn, rd, o⟩) s m
      (opcodeAlu op (readOperandReg s m o rn) (shifter s m o) s.flags).result
      (opcodeAlu op (readOperandReg s m o rn) (shifter s m o) s.flags).flags := by
  refine writesResult_of_writeResult fun sBit rd => ?_
  have noTest : op.isTest = true → sBit = true := fun test => absurd (test.symm.trans write) (by decide)
  rw [exec_instr_of_runs (f := ⟨op, c, sBit, rn, rd, o⟩) noTest rsNotPc runs, finishFields, write]
  rfl

/-- A test with a general register for Rd writes the flags its operation computes from the two operands. -/
theorem testsOnly_of_runs (test : op.isTest = true) :
    TestsOnly (fun rd => Fields.instr ⟨op, c, true, rn, rd, o⟩) s
      (opcodeAlu op (readOperandReg s m o rn) (shifter s m o) s.flags).flags := by
  intro g
  rw [exec_instr_of_runs (f := ⟨op, c, true, rn, .gpr g, o⟩) (fun _ => rfl) rsNotPc runs, finishFields, test]
  rfl

end

/-- What a test answers, read back: its flags are the next state's. -/
theorem flags_of_testsOnly {row : Reg → Instr} {s t : State} {f : Flags} {g : Gpr} (tests : TestsOnly row s f)
    (next : exec (row (.gpr g)) s = .next t) : t.flags = f := by
  obtain rfl := Host.Outcome.next.inj ((tests g).symm.trans next)
  exact psrFlags_psrWithFlags s.cpsr f

/-! ### The logical class (42_logical.md R110) -/

section
variable {s : State} {m : Mode} {c : Cond} (runs : Runs s m c) {op : Opcode} (rn : Reg) {o : Operand2} {r : Word}
  (rsNotPc : shiftAmountInPc o = false) (result : logicalResult op (readOperandReg s m o rn) (shifter s m o).value = some r)
include runs rsNotPc result

/-- A logical opcode with a result writes its row's word, with the flags of R65. -/
theorem writesResult_of_logicalResult (write : op.isTest = false) :
    WritesResult (fun sBit rd => Fields.instr ⟨op, c, sBit, rn, rd, o⟩) s m r (logicalFlags s m o r) := by
  have writes := writesResult_of_runs runs rn rsNotPc write
  rwa [opcodeAlu_of_logicalResult result] at writes

/-- A logical test writes the flags of R65 for its row's word. -/
theorem testsOnly_of_logicalResult (test : op.isTest = true) :
    TestsOnly (fun rd => Fields.instr ⟨op, c, true, rn, rd, o⟩) s (logicalFlags s m o r) := by
  have tests := testsOnly_of_runs runs rn rsNotPc test
  rwa [opcodeAlu_of_logicalResult result] at tests

end

/-- A logical opcode with a result, whose row computes `word` of its two operands, in its three forms. -/
theorem eachForm_writesResult_of_logicalResult {s : State} {m : Mode} {c : Cond} (runs : Runs s m c) (rn : Reg)
    {op : Opcode} (write : op.isTest = false) {word : Word → Word → Word}
    (result : ∀ a b, logicalResult op a b = some (word a b)) :
    EachForm
      (fun o sBit rd => Fields.instr ⟨op, c, sBit, rn, rd, .imm o⟩)
      (fun o sBit rd => Fields.instr ⟨op, c, sBit, rn, rd, .regImm o⟩)
      (fun o sBit rd => Fields.instr ⟨op, c, sBit, rn, rd, .regReg o⟩)
      fun o row => WritesResult row s m (word (readOperandReg s m o rn) (shifter s m o).value)
        (logicalFlags s m o (word (readOperandReg s m o rn) (shifter s m o).value)) :=
  eachForm_of_operand2 (row := fun o sBit rd => Fields.instr ⟨op, c, sBit, rn, rd, o⟩)
    fun _ rsNotPc => writesResult_of_logicalResult runs rn rsNotPc (result _ _) write

/-- Z of an exclusive or says that the two words are equal (42_logical.md R114). -/
theorem logicalFlags_xor_z (s : State) (m : Mode) (o : Operand2) (a b : Word) :
    (logicalFlags s m o (a ^^^ b)).z = true ↔ a = b :=
  beq_iff_eq.trans BitVec.xor_eq_zero_iff

end Sys2Proof.Machine

namespace Sys2Proof.Proofs

/-- Settles O32: TEQ writes the flags of the exclusive or, whose Z is the equality of the operands. -/
theorem teqTestsExclusiveOr : Obligations.TeqTestsExclusiveOr := by
  unfold Obligations.TeqTestsExclusiveOr
  intro s m c rn runs
  refine eachForm_of_operand2 (row := fun o rd => Fields.instr ⟨.teq, c, true, rn, rd, o⟩) fun o rsNotPc => ?_
  have tests := testsOnly_of_logicalResult (op := .teq) runs rn rsNotPc rfl rfl
  refine ⟨tests, fun g t next => ?_⟩
  rw [flags_of_testsOnly tests next]
  exact logicalFlags_xor_z s m o _ _

/-- Settles O31: TST is the logical test with the conjunction for its word. -/
theorem tstTestsConjunction : Obligations.TstTestsConjunction := by
  unfold Obligations.TstTestsConjunction
  intro s m c rn runs
  exact eachForm_of_operand2 (row := fun o rd => Fields.instr ⟨.tst, c, true, rn, rd, o⟩)
    fun _ rsNotPc => testsOnly_of_logicalResult runs rn rsNotPc rfl rfl

/-- Settles O25, with the conjunction for the row's word. -/
theorem andWritesConjunction : Obligations.AndWritesConjunction := by
  unfold Obligations.AndWritesConjunction
  intro s m c rn runs
  exact eachForm_writesResult_of_logicalResult runs rn (op := .and) rfl (word := fun a b => a &&& b) fun _ _ => rfl

/-- Settles O26, with the exclusive or for the row's word. -/
theorem eorWritesExclusiveOr : Obligations.EorWritesExclusiveOr := by
  unfold Obligations.EorWritesExclusiveOr
  intro s m c rn runs
  exact eachForm_writesResult_of_logicalResult runs rn (op := .eor) rfl (word := fun a b => a ^^^ b) fun _ _ => rfl

/-- Settles O27, with the disjunction for the row's word. -/
theorem orrWritesDisjunction : Obligations.OrrWritesDisjunction := by
  unfold Obligations.OrrWritesDisjunction
  intro s m c rn runs
  exact eachForm_writesResult_of_logicalResult runs rn (op := .orr) rfl (word := fun a b => a ||| b) fun _ _ => rfl

/-- Settles O28: MOV's word is operand 2, whatever the Rn field names. -/
theorem movWritesOperand2 : Obligations.MovWritesOperand2 := by
  unfold Obligations.MovWritesOperand2
  intro s m c rn runs
  exact eachForm_writesResult_of_logicalResult runs rn (op := .mov) rfl (word := fun _ b => b) fun _ _ => rfl

/-- Settles O29, with the and-not for the row's word. -/
theorem bicClearsBits : Obligations.BicClearsBits := by
  unfold Obligations.BicClearsBits
  intro s m c rn runs
  exact eachForm_writesResult_of_logicalResult runs rn (op := .bic) rfl (word := fun a b => a &&& ~~~b) fun _ _ => rfl

/-- Settles O30: MVN's word is the complement of operand 2, whatever the Rn field names. -/
theorem mvnWritesComplement : Obligations.MvnWritesComplement := by
  unfold Obligations.MvnWritesComplement
  intro s m c rn runs
  exact eachForm_writesResult_of_logicalResult runs rn (op := .mvn) rfl (word := fun _ b => ~~~b) fun _ _ => rfl

end Sys2Proof.Proofs
end

section
/-! The statements about the arithmetic class (43_arithmetic.md): one adder pass read as a sum or, on a complemented
word, as a difference, what each row of the class writes, and two passes chained through C. -/

open Sys2Proof Sys2Proof.Machine Sys2Proof.Spec

namespace Sys2Proof.Machine

/-! ### The adder as a sum and as a difference (R120) -/

/-- A result with the flags of the arithmetic class, in the words of 40_data_processing_common.md R66. -/
def arithmeticOut (r : Word) (carry : Bool) (exact : Int) : AluOut := ⟨r, arithmeticFlags r carry exact⟩

/-- The sum of two words and a carry in, V for an exact sum that does not fit (R123, R124). -/
theorem addWithCarry_eq_sum (x y : Word) (cin : Bool) :
    addWithCarry x y cin =
      arithmeticOut (x + y + BitVec.ofNat 32 cin.toNat) (decide (2 ^ 32 ≤ x.toNat + y.toNat + cin.toNat))
        (x.toInt + y.toInt + cin.toNat) := by
  have overflow (i j : Int) : (i != j) = decide (i ≠ j) :=
    Bool.eq_iff_iff.mpr (bne_iff_ne.trans decide_eq_true_iff.symm)
  rw [← addWithCarry_result, arithmeticOut, arithmeticFlags, overflow]
  rfl

theorem addWithCarry_false (x y : Word) :
    addWithCarry x y false =
      arithmeticOut (x + y) (decide (2 ^ 32 ≤ x.toNat + y.toNat)) (x.toInt + y.toInt) := by
  simpa using addWithCarry_eq_sum x y false

/-- The complement of a word, as a word: adding it takes the word away, and one more. -/
theorem not_eq_neg_sub_one (y : Word) : ~~~y = -y - 1#32 := by
  rw [BitVec.neg_eq_not_add, BitVec.add_sub_cancel]

/-- The complement of a word, as a signed number. -/
theorem toInt_not_eq (y : Word) : (~~~y).toInt = -y.toInt - 1 := by
  simp only [BitVec.toInt_eq_toNat_cond, BitVec.toNat_not]
  have := y.isLt
  omega

/-- With the second word complemented the adder subtracts, and the carry in is the borrow's opposite: C = 1 says no
borrow (R121, R125, log 19). -/
theorem addWithCarry_not_eq_difference (x y : Word) (cin : Bool) :
    addWithCarry x (~~~y) cin =
      arithmeticOut (x - y - BitVec.ofNat 32 (!cin).toNat) (decide (y.toNat + (!cin).toNat ≤ x.toNat))
        (x.toInt - y.toInt - (!cin).toNat) := by
  have word : x + ~~~y + BitVec.ofNat 32 cin.toNat = x - y - BitVec.ofNat 32 (!cin).toNat := by
    rw [not_eq_neg_sub_one]
    cases cin <;> simp <;> ring
  have noBorrow : 2 ^ 32 ≤ x.toNat + (~~~y).toNat + cin.toNat ↔ y.toNat + (!cin).toNat ≤ x.toNat := by
    have := y.isLt
    cases cin <;> simp [BitVec.toNat_not] <;> omega
  have signed : x.toInt + (~~~y).toInt + cin.toNat = x.toInt - y.toInt - (!cin).toNat := by
    rw [toInt_not_eq]
    cases cin <;> simp <;> ring
  rw [addWithCarry_eq_sum, word, signed, decide_eq_decide.mpr noBorrow]

theorem addWithCarry_not_true (x y : Word) :
    addWithCarry x (~~~y) true =
      arithmeticOut (x - y) (decide (y.toNat ≤ x.toNat)) (x.toInt - y.toInt) := by
  simpa using addWithCarry_not_eq_difference x y true

/-! ### The rows of the class (R121 to R128) -/

/-- `out` says what the row of `op` computes of two operands with the old C: the adder gives it on the row's inputs. -/
def AdderGives (op : Opcode) (c : Bool) (out : Word → Word → AluOut) : Prop :=
  ∀ a b, ∃ x y cin, adderInputs op a b c = some (x, y, cin) ∧ addWithCarry x y cin = out a b

theorem opcodeAlu_of_adderGives {op : Opcode} {old : Flags} {out : Word → Word → AluOut}
    (gives : AdderGives op old.c out) (a : Word) (sh : ShifterOut) : opcodeAlu op a sh old = out a sh.value := by
  obtain ⟨x, y, cin, inputs, adds⟩ := gives a sh.value
  rw [opcodeAlu_of_adderInputs inputs, adds]

section
variable {s : State} {m : Mode} {c : Cond} (runs : Runs s m c) (rn : Reg) {op : Opcode} {out : Word → Word → AluOut}
  (gives : AdderGives op s.flags.c out)
include runs gives

/-- An arithmetic opcode with a result, in its three forms. -/
theorem eachForm_writesResult_of_adderGives (write : op.isTest = false) :
    EachForm
      (fun o sBit rd => Fields.instr ⟨op, c, sBit, rn, rd, .imm o⟩)
      (fun o sBit rd => Fields.instr ⟨op, c, sBit, rn, rd, .regImm o⟩)
      (fun o sBit rd => Fields.instr ⟨op, c, sBit, rn, rd, .regReg o⟩)
      fun o row => WritesResult row s m (out (readOperandReg s m o rn) (shifter s m o).value).result
        (out (readOperandReg s m o rn) (shifter s m o).value).flags := by
  refine eachForm_of_operand2 (row := fun o sBit rd => Fields.instr ⟨op, c, sBit, rn, rd, o⟩) fun o rsNotPc => ?_
  have writes := writesResult_of_runs runs rn rsNotPc write
  rwa [opcodeAlu_of_adderGives gives] at writes

/-- An arithmetic test writes the flags of what its row computes. -/
theorem testsOnly_of_adderGives {o : Operand2} (rsNotPc : shiftAmountInPc o = false) (test : op.isTest = true) :
    TestsOnly (fun rd => Fields.instr ⟨op, c, true, rn, rd, o⟩) s
      (out (readOperandReg s m o rn) (shifter s m o).value).flags := by
  have tests := testsOnly_of_runs runs rn rsNotPc test
  rwa [opcodeAlu_of_adderGives gives] at tests

end

/-- A test answers a next state, and its flags are there. -/
theorem exists_next_of_testsOnly {row : Reg → Instr} {s : State} {f : Flags} (tests : TestsOnly row s f) (g : Gpr) :
    ∃ t, exec (row (.gpr g)) s = .next t ∧ t.flags = f :=
  ⟨_, tests g, flags_of_testsOnly tests (tests g)⟩

/-! ### What the flags of a comparison say (R127, R128) -/

theorem arithmeticFlags_sub_z (a b : Word) (carry : Bool) (exact : Int) :
    (arithmeticFlags (a - b) carry exact).z = true ↔ a = b :=
  beq_iff_eq.trans sub_eq_zero

theorem arithmeticFlags_add_z (a b : Word) (carry : Bool) (exact : Int) :
    (arithmeticFlags (a + b) carry exact).z = true ↔ a = -b :=
  beq_iff_eq.trans add_eq_zero_iff_eq_neg

/-- N is the sign of the 32-bit difference and V says that it is not the exact one, so N against V is the sign of the
exact difference. -/
theorem arithmeticFlags_sub_n_ne_v (a b : Word) (carry : Bool) :
    (arithmeticFlags (a - b) carry (a.toInt - b.toInt)).n ≠ (arithmeticFlags (a - b) carry (a.toInt - b.toInt)).v ↔
      a.toInt < b.toInt := by
  have sign : (a - b).msb = true ↔ (a - b).toInt < 0 := by rw [BitVec.msb_eq_toInt, decide_eq_true_iff]
  have overflow : (a.toInt - b.toInt != (a - b).toInt) = true ↔ a.toInt - b.toInt ≠ (a - b).toInt := bne_iff_ne
  have wraps : (a - b).toInt = (a.toInt - b.toInt).bmod (2 ^ 32) := BitVec.toInt_sub
  have := a.isLt
  have := b.isLt
  rw [ne_eq, Bool.eq_iff_iff, arithmeticFlags, sign, overflow, wraps]
  simp only [BitVec.toInt_eq_toNat_cond, Int.bmod_def]
  omega

/-! ### Two passes chained through C (R124, R125, R153) -/

/-- Two words side by side, as a number. -/
theorem toNat_append_words (h l : Word) : (h ++ l).toNat = h.toNat * 2 ^ 32 + l.toNat := by
  rw [BitVec.toNat_append, ← Nat.shiftLeft_add_eq_or_of_lt l.isLt, Nat.shiftLeft_eq]

/-- A pass loses nothing: the exact sum is the result with C for its bit 32 (R120). -/
theorem addWithCarry_toNat (x y : Word) (cin : Bool) :
    (addWithCarry x y cin).result.toNat + 2 ^ 32 * (addWithCarry x y cin).flags.c.toNat =
      x.toNat + y.toNat + cin.toNat := by
  have sum : (addWithCarry x y cin).result.toNat = (x.toNat + y.toNat + cin.toNat) % 2 ^ 32 := rfl
  obtain ⟨-, -, carry, -⟩ := addWithCarry_flags_iff x y cin
  have carryIn := Bool.toNat_le cin
  have := x.isLt
  have := y.isLt
  cases c : (addWithCarry x y cin).flags.c with
  | false =>
    have noCarry : ¬ 2 ^ 32 ≤ x.toNat + y.toNat + cin.toNat := fun large =>
      absurd (c.symm.trans (carry.mpr large)) (by decide)
    simp only [Bool.toNat_false]
    omega
  | true =>
    have large := carry.mp c
    simp only [Bool.toNat_true]
    omega

/-- The low words first, then the high words with the C that gave: the 64-bit adder. -/
theorem addWithCarry_chain (ah al bh bl : Word) (cin : Bool) :
    let lo := addWithCarry al bl cin
    let hi := addWithCarry ah bh lo.flags.c
    hi.result ++ lo.result = (ah ++ al) + (bh ++ bl) + BitVec.ofNat 64 cin.toNat ∧
    (hi.flags.c = true ↔ 2 ^ 64 ≤ (ah ++ al).toNat + (bh ++ bl).toNat + cin.toNat) := by
  intro lo hi
  have low : lo.result.toNat + 2 ^ 32 * lo.flags.c.toNat = al.toNat + bl.toNat + cin.toNat :=
    addWithCarry_toNat al bl cin
  have high : hi.result.toNat + 2 ^ 32 * hi.flags.c.toNat = ah.toNat + bh.toNat + lo.flags.c.toNat :=
    addWithCarry_toNat ah bh lo.flags.c
  have loWord := lo.result.isLt
  have hiWord := hi.result.isLt
  constructor
  · refine BitVec.eq_of_toNat_eq ?_
    simp only [BitVec.toNat_add, BitVec.toNat_ofNat, toNat_append_words]
    omega
  · obtain ⟨-, -, carry, -⟩ := addWithCarry_flags_iff ah bh lo.flags.c
    refine carry.trans ?_
    rw [toNat_append_words, toNat_append_words]
    omega

end Sys2Proof.Machine

namespace Sys2Proof.Proofs

/-- Settles O33: on operand 2 complemented and carry in 1 the adder subtracts it. -/
theorem subWritesDifference : Obligations.SubWritesDifference := by
  unfold Obligations.SubWritesDifference
  intro s m c rn runs
  exact eachForm_writesResult_of_adderGives runs rn (op := .sub)
    (fun a b => ⟨_, _, _, rfl, addWithCarry_not_true a b⟩) rfl

/-- Settles O34: as O33 with the operands exchanged. -/
theorem rsbWritesReverseDifference : Obligations.RsbWritesReverseDifference := by
  unfold Obligations.RsbWritesReverseDifference
  intro s m c rn runs
  exact eachForm_writesResult_of_adderGives runs rn (op := .rsb)
    (fun a b => ⟨_, _, _, rfl, addWithCarry_not_true b a⟩) rfl

/-- Settles O35: with carry in 0 the adder adds its two words. -/
theorem addWritesSum : Obligations.AddWritesSum := by
  unfold Obligations.AddWritesSum
  intro s m c rn runs
  exact eachForm_writesResult_of_adderGives runs rn (op := .add)
    (fun a b => ⟨_, _, _, rfl, addWithCarry_false a b⟩) rfl

/-- Settles O36: the third summand is the carry in, the old C. -/
theorem adcWritesSumWithCarry : Obligations.AdcWritesSumWithCarry := by
  unfold Obligations.AdcWritesSumWithCarry
  intro s m c rn runs
  exact eachForm_writesResult_of_adderGives runs rn (op := .adc)
    (fun a b => ⟨_, _, _, rfl, addWithCarry_eq_sum a b s.flags.c⟩) rfl

/-- Settles O37: with the old C for the carry in, the borrow is its opposite. -/
theorem sbcWritesDifferenceWithBorrow : Obligations.SbcWritesDifferenceWithBorrow := by
  unfold Obligations.SbcWritesDifferenceWithBorrow
  intro s m c rn runs
  exact eachForm_writesResult_of_adderGives runs rn (op := .sbc)
    (fun a b => ⟨_, _, _, rfl, addWithCarry_not_eq_difference a b s.flags.c⟩) rfl

/-- Settles O38: as O37 with the operands exchanged. -/
theorem rscWritesReverseDifferenceWithBorrow : Obligations.RscWritesReverseDifferenceWithBorrow := by
  unfold Obligations.RscWritesReverseDifferenceWithBorrow
  intro s m c rn runs
  exact eachForm_writesResult_of_adderGives runs rn (op := .rsc)
    (fun a b => ⟨_, _, _, rfl, addWithCarry_not_eq_difference b a s.flags.c⟩) rfl

/-- Settles O39: CMP writes the flags of the difference, and those order the operands. -/
theorem cmpComparesOperands : Obligations.CmpComparesOperands := by
  unfold Obligations.CmpComparesOperands
  intro s m c rn runs
  refine eachForm_of_operand2 (row := fun o rd => Fields.instr ⟨.cmp, c, true, rn, rd, o⟩) fun o rsNotPc => ?_
  have tests := testsOnly_of_adderGives runs rn (op := .cmp)
    (fun a b => ⟨_, _, _, rfl, addWithCarry_not_true a b⟩) rsNotPc rfl
  refine ⟨tests, fun g => ?_⟩
  obtain ⟨t, next, flags⟩ := exists_next_of_testsOnly tests g
  refine ⟨t, next, ?_⟩
  rw [flags]
  exact ⟨arithmeticFlags_sub_z _ _ _ _, decide_eq_true_iff, arithmeticFlags_sub_n_ne_v _ _ _⟩

/-- Settles O40: CMN writes the flags of the sum, which is 0 for opposite operands. -/
theorem cmnTestsSum : Obligations.CmnTestsSum := by
  unfold Obligations.CmnTestsSum
  intro s m c rn runs
  refine eachForm_of_operand2 (row := fun o rd => Fields.instr ⟨.cmn, c, true, rn, rd, o⟩) fun o rsNotPc => ?_
  have tests := testsOnly_of_adderGives runs rn (op := .cmn)
    (fun a b => ⟨_, _, _, rfl, addWithCarry_false a b⟩) rsNotPc rfl
  refine ⟨tests, fun g => ?_⟩
  obtain ⟨t, next, flags⟩ := exists_next_of_testsOnly tests g
  refine ⟨t, next, ?_⟩
  rw [flags]
  exact arithmeticFlags_add_z _ _ _ _

/-- Settles O45: the chain is the 64-bit adder, and a 64-bit difference is the sum with the complement and 1. -/
theorem carryChainsAcrossWords : Obligations.CarryChainsAcrossWords := by
  unfold Obligations.CarryChainsAcrossWords
  intro ah al bh bl lo hi lo' hi'
  obtain ⟨sum, -⟩ := addWithCarry_chain ah al bh bl false
  obtain ⟨difference, carry⟩ := addWithCarry_chain ah al (~~~bh) (~~~bl) true
  rw [← BitVec.not_append] at difference carry
  refine ⟨by simpa using sum, difference.trans ?_, carry.trans ?_⟩
  · rw [BitVec.sub_eq_add_neg, BitVec.neg_eq_not_add, ← BitVec.add_assoc]
    rfl
  · have := (bh ++ bl).isLt
    simp only [BitVec.toNat_not, Bool.toNat_true]
    omega

end Sys2Proof.Proofs
end

section
/-! The statements about exceptions and privilege (60_exceptions.md): what bits 27 to 0 of CPSR can change to, what a
User-mode program can change and can learn, and that the return from an exception undoes its entry. -/

open Sys2Proof Sys2Proof.Machine Sys2Proof.Spec

namespace Sys2Proof.Machine

/-! ### How the mode, the masks and the state bit change (60_exceptions.md R146) -/

/-- An instruction with Rd = R15 copied the whole SPSR of mode `m` to CPSR: a return (S = 1) or a P form
(40_data_processing_common.md R69, R70), with the image R74 asks for. -/
structure RestoresCpsr (f : Fields) (m : Mode) (s t : State) : Prop where
  s_or_test : f.s = true ∨ f.op.isTest = true
  dest : f.rd = .pc
  has : s.spsr.get m = some t.cpsr
  legal : t.mode.isSome = true
  arm : psrThumb t.cpsr = false

/-- Writing the flags is all an instruction does to CPSR, but for the two that restore it. -/
theorem Executes.cpsr_low_or_restores {f : Fields} {m : Mode} {s t : State} (e : Executes f m s t) :
    t.cpsr.extractLsb' 0 28 = s.cpsr.extractLsb' 0 28 ∨ RestoresCpsr f m s t := by
  cases e with
  | writesRegister g _ _ => left; cases f.s <;> simp
  | jumps _ _ _ _ => exact .inl rfl
  | returns saved _ dest sSet _ _ has legal arm => exact .inr ⟨.inl sSet, dest, has, legal, arm⟩
  | testsFlags g _ _ => left; simp
  | teqpInUserMode _ _ _ => exact .inl rfl
  | pForm saved test dest _ has legal arm => exact .inr ⟨.inr test, dest, has, legal, arm⟩

/-- User and System mode have no SPSR (10_state.md R19). -/
theorem SpsrFile.ne_usr_ne_sys_of_get {f : SpsrFile} {m : Mode} {v : Word} (has : f.get m = some v) :
    m ≠ .usr ∧ m ≠ .sys := by
  constructor <;> rintro rfl <;> exact nomatch has

/-- The mode number is part of bits 27 to 0 (10_state.md R16). -/
theorem psrMode_eq_of_low_eq {p q : Word} (low : p.extractLsb' 0 28 = q.extractLsb' 0 28) : psrMode p = psrMode q := by
  have number (w : Word) : w.extractLsb' 0 5 = (w.extractLsb' 0 28).extractLsb' 0 5 := by
    rw [BitVec.extractLsb'_extractLsb'_of_le (by decide)]
  rw [psrMode, psrMode, number p, number q, low]

/-- In User mode, which has no SPSR to restore, bits 27 to 0 of CPSR stay. -/
theorem exec_cpsr_low_of_usr {i : Instr} {s t : State} (user : s.mode = some .usr) (next : exec i s = .next t) :
    t.cpsr.extractLsb' 0 28 = s.cpsr.extractLsb' 0 28 := by
  obtain ⟨-, rfl⟩ | ⟨-, run⟩ := exec_next_in_mode user next
  · rfl
  · obtain low | restores := run.cpsr_low_or_restores
    · exact low
    · exact absurd rfl (SpsrFile.ne_usr_ne_sys_of_get restores.has).1

/-- An instruction writes no register copy that its mode does not see (10_state.md R13). -/
theorem exec_regs_get_of_unseen {i : Instr} {s t : State} {m : Mode} (mode : s.mode = some m) (next : exec i s = .next t)
    {p : PhysReg} (unseen : ∀ g, p ≠ bank m g) : t.regs.get p = s.regs.get p := by
  obtain ⟨-, rfl⟩ | ⟨-, run⟩ := exec_next_in_mode mode next
  · rfl
  · exact run.regs_get fun _ g _ => unseen g

/-- In Thumb state nothing is fetched (30_encoding.md R40). -/
theorem step_eq_thumbState {s : State} (thumb : psrThumb s.cpsr = true) : step s = .refused .thumbState :=
  if_pos thumb

end Sys2Proof.Machine

namespace Sys2Proof.Spec

/-! ### Two states that User mode cannot tell apart: what keeps them so -/

section
variable {s s' : State} (same : SameForUser s s')
include same

theorem SameForUser.cpsr : s.cpsr = s'.cpsr := by
  obtain ⟨-, cpsr, -⟩ := same
  exact cpsr

theorem SameForUser.mode : s.mode = s'.mode := congrArg psrMode same.cpsr

theorem SameForUser.flags : s.flags = s'.flags := congrArg psrFlags same.cpsr

theorem SameForUser.with_pc (target : Word) : SameForUser { s with pc := target } { s' with pc := target } := by
  obtain ⟨-, rest⟩ := same
  exact ⟨rfl, rest⟩

theorem SameForUser.advance : SameForUser s.advance s'.advance := by
  obtain ⟨pc, rest⟩ := same
  exact ⟨congrArg (· + 4#32) pc, rest⟩

theorem SameForUser.writeFlags (f : Flags) : SameForUser (s.writeFlags f) (s'.writeFlags f) := by
  obtain ⟨pc, cpsr, rest⟩ := same
  exact ⟨pc, congrArg (psrWithFlags · f) cpsr, rest⟩

/-- A write to a copy User mode sees: that copy reads the same value in both, every other one what it read before. -/
theorem SameForUser.writeReg (g : Gpr) (v : Word) : SameForUser (s.writeReg .usr g v) (s'.writeReg .usr g v) := by
  obtain ⟨pc, cpsr, mem, params, regs⟩ := same
  refine ⟨pc, cpsr, mem, params, fun h => ?_⟩
  by_cases written : h = g
  · subst written
    rw [State.readReg_writeReg_same, State.readReg_writeReg_same]
  · rw [State.readReg_writeReg_ne _ _ _ written, State.readReg_writeReg_ne _ _ _ written, regs h]

/-! ### What an instruction reads in User mode -/

theorem SameForUser.readOperandReg (o : Operand2) (r : Reg) :
    Machine.readOperandReg s .usr o r = Machine.readOperandReg s' .usr o r := by
  obtain ⟨pc, -, -, -, regs⟩ := same
  cases r with
  | gpr g => exact regs g
  | pc => exact congrArg (· + pcReadAhead o) pc

theorem SameForUser.shifter (o : Operand2) : Machine.shifter s .usr o = Machine.shifter s' .usr o := by
  have operands := same.readOperandReg
  have flags := same.flags
  obtain ⟨-, -, -, params, -⟩ := same
  cases o with
  | imm _ => simp only [shifter_imm, flags]
  | regImm _ => simp only [shifter_regImm, flags, operands]
  | regReg _ => simp only [shifter_regReg, flags, operands, params]

theorem SameForUser.fieldsOut (f : Fields) : Machine.fieldsOut f .usr s = Machine.fieldsOut f .usr s' := by
  rw [Machine.fieldsOut, Machine.fieldsOut, same.readOperandReg, same.shifter, same.flags]

theorem SameForUser.fetchWord : Machine.fetchWord s = Machine.fetchWord s' := by
  obtain ⟨pc, -, mem, params, -⟩ := same
  rw [Machine.fetchWord, Machine.fetchWord, pc, mem, params]

/-! ### What an instruction answers in User mode -/

theorem SameForUser.jump (target : Word) : SameAnswer SameForUser (Machine.jump target s) (Machine.jump target s') := by
  unfold Machine.jump
  split
  · exact same.with_pc target
  · rfl

/-- Writing a result: no SPSR is looked at, because User mode may not return from an exception
(40_data_processing_common.md R69). -/
theorem SameForUser.writeResult (sBit : Bool) (rd : Reg) (out : AluOut) :
    SameAnswer SameForUser (Machine.writeResult .usr sBit rd out s) (Machine.writeResult .usr sBit rd out s') := by
  have written (g : Gpr) := same.writeReg g out.result
  cases rd with
  | gpr g =>
    cases sBit with
    | false => exact (written g).advance
    | true => exact ((written g).writeFlags out.flags).advance
  | pc =>
    cases sBit with
    | false => exact same.jump out.result
    | true => rfl

/-- Finishing a test: no P form looks at an SPSR in User mode (R70). -/
theorem SameForUser.finishTest (isTeq : Bool) (rd : Reg) (out : AluOut) :
    SameAnswer SameForUser (Machine.finishTest .usr isTeq rd out s) (Machine.finishTest .usr isTeq rd out s') := by
  cases rd with
  | gpr g => exact (same.writeFlags out.flags).advance
  | pc =>
    cases isTeq with
    | false => rfl
    | true => exact same.advance

theorem SameForUser.finishFields (f : Fields) :
    SameAnswer SameForUser (Machine.finishFields f .usr s) (Machine.finishFields f .usr s') := by
  rw [Machine.finishFields, Machine.finishFields, same.fieldsOut f]
  split
  · exact same.finishTest _ f.rd _
  · exact same.writeResult f.s f.rd _

theorem SameForUser.exec (user : s.mode = some .usr) (i : Instr) :
    SameAnswer SameForUser (Machine.exec i s) (Machine.exec i s') := by
  rw [exec_eq_issue, exec_eq_issue]
  cases rsInPc : shiftAmountInPc i.fields.op2 with
  | true => rw [issue_shiftAmountInPc rsInPc, issue_shiftAmountInPc rsInPc]; rfl
  | false =>
    rw [issue_eq_ite rsInPc user, issue_eq_ite rsInPc (same.mode.symm.trans user), same.flags]
    split
    · exact same.finishFields i.fields
    · exact same.advance

theorem SameForUser.step (user : s.mode = some .usr) : SameAnswer SameForUser (Machine.step s) (Machine.step s') := by
  cases thumb : psrThumb s.cpsr with
  | true => rw [step_eq_thumbState thumb, step_eq_thumbState (same.cpsr ▸ thumb)]; rfl
  | false =>
    have arm' : psrThumb s'.cpsr = false := same.cpsr ▸ thumb
    cases fetch : Machine.fetchWord s with
    | error f => rw [step_eq_fault thumb fetch, step_eq_fault arm' (same.fetchWord.symm.trans fetch)]; rfl
    | ok w =>
      have fetch' := same.fetchWord.symm.trans fetch
      cases decode : decodeWord w with
      | error why => rw [step_eq_refused thumb fetch decode, step_eq_refused arm' fetch' decode]; rfl
      | ok i =>
        rw [step_eq_exec thumb fetch decode, step_eq_exec arm' fetch' decode]
        exact same.exec user i

end

end Sys2Proof.Spec

namespace Sys2Proof.Machine

/-! ### Entering an exception (60_exceptions.md R141, R144) -/

theorem vectorAndMode_eq (e : Exception) : vectorAndMode e = (exceptionVector e, exceptionMode e) := by
  cases e <;> rfl

theorem exceptionLinkOffset_eq (e : Exception) : exceptionLinkOffset e = savedOffset e := by
  cases e <;> rfl

/-- Entry keeps the flags and the reserved bits of CPSR. -/
theorem exceptionCpsr_high (e : Exception) (p : Word) : (exceptionCpsr e p).extractLsb' 8 24 = p.extractLsb' 8 24 := by
  refine BitVec.eq_of_getLsbD_eq fun i hi => ?_
  have bit := exceptionCpsr_getLsbD e p (show 8 + i < 32 by omega)
  rw [if_neg (by omega), if_neg (by omega), if_neg (by omega), if_neg (by omega)] at bit
  simp [hi, bit]

@[simp] theorem takeException_mode (e : Exception) (a : Word) (s : State) :
    (takeException e a s).mode = some (exceptionMode e) := by
  simp [State.mode]

/-- R14 of the mode entered holds the address to return by. -/
@[simp] theorem takeException_link (e : Exception) (a : Word) (s : State) :
    (takeException e a s).readReg (exceptionMode e) .r14 = a + exceptionLinkOffset e := by
  simp [State.readReg]

/-! ### Returning from it (60_exceptions.md R145) -/

/-- What an exception's return instruction takes off R14: 0 for MOVS, else the immediate of SUBS. -/
def returnOffset : Exception → Word
  | .softwareInterrupt | .undefinedInstruction => 0#32
  | .irq | .fiq | .prefetchAbort => 4#32
  | .dataAbort => 8#32

theorem subAlu_result (a : Word) (sh : ShifterOut) (f : Flags) : (subAlu a sh f).result = a - sh.value := by
  rw [subAlu, addWithCarry_not_true]
  rfl

theorem fieldsOut_returnInstr_result (e : Exception) (m : Mode) (t : State) :
    (fieldsOut (returnInstr e).fields m t).result = t.readReg m .r14 - returnOffset e := by
  cases e with
  | undefinedInstruction | softwareInterrupt => exact (BitVec.sub_zero _).symm
  | prefetchAbort | dataAbort | irq | fiq => exact subAlu_result _ _ t.flags

/-- Every return instruction has S = 1 and Rd = R15, so it is a return from the mode it runs in
(40_data_processing_common.md R69). -/
theorem exec_returnInstr (e : Exception) {t : State} {m : Mode} (mode : t.mode = some m) :
    exec (returnInstr e) t = returnFromException m (t.readReg m .r14 - returnOffset e) t := by
  have wf : (returnInstr e).wellFormed = true := by cases e <;> rfl
  have runs : Runs t m (returnInstr e).cond := by cases e <;> exact ⟨mode, rfl⟩
  rw [exec_of_runs wf runs, ← fieldsOut_returnInstr_result e m t]
  cases e <;> rfl

/-- From a mode with a legal saved image, a return to a word address completes (70_reset_and_hazards.md R151). -/
theorem returnFromException_of_ready {s : State} {m : Mode} {target saved : Word}
    (ready : ReadyToReturn s m target saved) :
    returnFromException m target s = .next { s with cpsr := saved, pc := target } := by
  obtain ⟨-, has, legal, arm, al⟩ := ready
  exact returnFromException_next.mpr ⟨(SpsrFile.ne_usr_ne_sys_of_get has).1, al, saved, has, legal, arm, rfl⟩

/-- The offset entry adds and the one the return takes off leave where the program goes on (log 21). -/
theorem link_sub_returnOffset (e : Exception) (next : Word) :
    next + exceptionLinkOffset e - returnOffset e = resumeAt e next := by
  cases e with
  | undefinedInstruction | softwareInterrupt | prefetchAbort | irq | fiq =>
    simp [exceptionLinkOffset, returnOffset, resumeAt]
  | dataAbort =>
    simp only [exceptionLinkOffset, returnOffset, resumeAt]
    bv_omega

theorem aligned_resumeAt {next : Word} (al : aligned next = true) (e : Exception) : aligned (resumeAt e next) = true := by
  cases e with
  | undefinedInstruction | softwareInterrupt | irq | fiq => exact al
  | prefetchAbort | dataAbort =>
    rw [resumeAt, ← aligned_add_four, BitVec.sub_add_cancel]
    exact al

/-- Entry leaves a state that is ready to return to the interrupted program. -/
theorem takeException_ready {s : State} {next : Word} (e : Exception) (legal : s.mode.isSome = true)
    (arm : psrThumb s.cpsr = false) (al : aligned next = true) :
    ReadyToReturn (takeException e next s) (exceptionMode e) (resumeAt e next) s.cpsr :=
  ⟨takeException_mode e next s, SpsrFile.get_set_exceptionMode s.spsr e s.cpsr, legal, arm, aligned_resumeAt al e⟩

theorem exec_returnInstr_takeException {s : State} {next : Word} (e : Exception) (legal : s.mode.isSome = true)
    (arm : psrThumb s.cpsr = false) (al : aligned next = true) :
    exec (returnInstr e) (takeException e next s) =
      .next { takeException e next s with cpsr := s.cpsr, pc := resumeAt e next } := by
  rw [exec_returnInstr e (takeException_mode e next s), takeException_link, link_sub_returnOffset]
  exact returnFromException_of_ready (takeException_ready e legal arm al)

end Sys2Proof.Machine

namespace Sys2Proof.Proofs

/-- Settles O53: a step that answers a next state executed an instruction, and in User mode none restores CPSR or writes
a copy that User mode does not see. -/
theorem userModeStaysConfined : Obligations.UserModeStaysConfined := by
  unfold Obligations.UserModeStaysConfined
  intro s t user next
  obtain ⟨-, w, i, -, -, run⟩ := step_next.mp next
  have low := exec_cpsr_low_of_usr user run
  exact ⟨(psrMode_eq_of_low_eq low).trans user, low, (exec_sameStore run).spsr, fun p => exec_regs_get_of_unseen user run⟩

/-- Settles O54: the fetch, the checks, the operands and the writes of a step agree in two such states, one by one. -/
theorem userModeLearnsNothingPrivileged : Obligations.UserModeLearnsNothingPrivileged := by
  unfold Obligations.UserModeLearnsNothingPrivileged
  intro s s' user same
  exact same.step user

/-- Settles O52: of all an instruction can do, only a return and a P form touch bits 27 to 0 of CPSR, and both restore
it; no test has S = 0. -/
theorem modeChangesOnlyByRestoringCpsr : Obligations.ModeChangesOnlyByRestoringCpsr := by
  unfold Obligations.ModeChangesOnlyByRestoringCpsr
  intro i s t next changed
  obtain ⟨-, m, mode, ⟨-, rfl⟩ | ⟨-, run⟩⟩ := exec_next next
  · exact absurd rfl changed
  · obtain ⟨s_or_test, dest, has, legal, arm⟩ := run.cpsr_low_or_restores.resolve_left changed
    obtain ⟨notUser, notSystem⟩ := SpsrFile.ne_usr_ne_sys_of_get has
    exact ⟨s_or_test.elim id i.test_sBit, dest, m, mode, notUser, notSystem, has, Option.isSome_iff_ne_none.mp legal, arm⟩

/-- Settles O55: entry clause by clause from the bits of the CPSR it writes and the one copy and the one SPSR it sets;
the return because entry leaves a state that is ready for it. -/
theorem exceptionEntryThenReturn : Obligations.ExceptionEntryThenReturn := by
  unfold Obligations.ExceptionEntryThenReturn
  intro e s m next mode arm al
  simp only [vectorAndMode_eq, ← exceptionLinkOffset_eq]
  have bit {i : Nat} (hi : i < 32) := exceptionCpsr_getLsbD e s.cpsr hi
  refine ⟨?returns, rfl, takeException_mode e next s, SpsrFile.get_set_exceptionMode s.spsr e s.cpsr,
    fun m' other => SpsrFile.get_set_ne s.spsr s.cpsr other, takeException_link e next s, bit (by decide),
    fun fiq => ?fMasked, fun notFiq => ?fKept, bit (by decide), exceptionCpsr_high e s.cpsr, rfl, rfl,
    fun p other => RegFile.get_set_ne s.regs _ other⟩
  case returns => exact exec_returnInstr_takeException e (by simp [mode]) arm ((aligned_iff next).mpr al)
  case fMasked => exact (bit (by decide)).trans (by simp [fiq])
  case fKept => exact (bit (by decide)).trans (by simp [notFiq])

end Sys2Proof.Proofs
end

section
/-! The statements about reset and timing (70_reset_and_hazards.md): what the state after reset holds, that it is legal,
and the cycle counts of Table 8. -/

open Sys2Proof Sys2Proof.Machine Sys2Proof.Spec

namespace Sys2Proof.Machine

/-! ### The state after reset -/

@[simp] theorem RegFile.get_zero (p : PhysReg) : RegFile.zero.get p = 0#32 := by
  cases p <;> rfl

theorem SpsrFile.eq_zero_of_get_zero {m : Mode} {v : Word} (has : SpsrFile.zero.get m = some v) : v = 0#32 := by
  cases m with
  | usr | sys => exact nomatch has
  | fiq | irq | svc | abt | und => exact (Option.some.inj has).symm

/-- M = 10011, Supervisor mode (10_state.md R16). -/
@[simp] theorem State.reset_mode : State.reset.mode = some .svc := rfl

/-- T = 0, ARM state (10_state.md R16). -/
@[simp] theorem State.reset_arm : psrThumb State.reset.cpsr = false := rfl

/-! ### Cycle counts -/

theorem hasRegisterShift_eq (i : Instr) : hasRegisterShift i = decide (formOf i.fields.op2 = .regReg) := by
  unfold hasRegisterShift
  cases i.fields.op2 <;> rfl

theorem writesPc_eq (i : Instr) : writesPc i = decide (i.fields.rd = .pc ∧ i.fields.op.isTest = false) := by
  simp [writesPc, Bool.beq_eq_decide_eq, Bool.and_comm]

theorem instrCycles_of_holds {i : Instr} {f : Flags} (holds : condHolds i.cond f = true) :
    instrCycles i f = executedCycles i := if_pos holds

theorem instrCycles_of_fails {i : Instr} {f : Flags} (fails : condHolds i.cond f = false) :
    instrCycles i f = ⟨1, 0, 0⟩ := if_neg (by simp [fails])

end Sys2Proof.Machine

namespace Sys2Proof.Proofs

/-- Settles O46: the copies and the SPSRs one by one; the rest is how the state after reset is written. -/
theorem resetStateValues : Obligations.ResetStateValues := by
  unfold Obligations.ResetStateValues
  exact ⟨rfl, rfl, State.reset_mode, State.reset_arm, RegFile.get_zero, fun _ _ => SpsrFile.eq_zero_of_get_zero,
    fun _ => rfl, rfl⟩

/-- Settles O47, by the four parts of a legal state. -/
theorem resetIsLegal : Obligations.ResetIsLegal := by
  unfold Obligations.ResetIsLegal
  have pcAligned : aligned State.reset.pc = true := rfl
  have memoryEmpty : Memory.wf State.reset.mem = true := rfl
  exact State.reset.legal_iff.mpr ⟨pcAligned, by simp, State.reset_arm, memoryEmpty⟩

/-- Settles O56: a condition that holds leaves the counts of the two tests, each of which adds its own cycles. -/
theorem cycleCountsOfTable8 : Obligations.CycleCountsOfTable8 := by
  unfold Obligations.CycleCountsOfTable8
  intro i f byRegister toPc
  refine ⟨fun holds => ?executed, instrCycles_of_fails⟩
  case executed =>
    rw [instrCycles_of_holds holds, executedCycles, writesPc_eq, hasRegisterShift_eq]
    refine ⟨fun notReg notPc => ?_, fun reg notPc => ?_, fun notReg pc => ?_, fun reg pc => ?_⟩
    · rw [decide_eq_false notPc, decide_eq_false notReg]; rfl
    · rw [decide_eq_false notPc, decide_eq_true reg]; rfl
    · rw [decide_eq_true pc, decide_eq_false notReg]; rfl
    · rw [decide_eq_true pc, decide_eq_true reg]; rfl

end Sys2Proof.Proofs
end
